-- ==== Sys2Proof/Word.lean ====
section
/-! DEFINITION. The words of the block: the 8-bit register byte and the 12-bit request word (00_scope.md R5, R6;
30_encoding.md R50). Every value is unsigned and bit 0 is the least significant (R6). -/

namespace Sys2Proof

/-- A register byte, `REG_W` = 8 bits (00_scope.md R5). -/
abbrev Byte := BitVec 8

/-- A request word, 12 bits, of one length and one format (30_encoding.md R50, R61). -/
abbrev ReqWord := BitVec 12

end Sys2Proof
end

