-- ==== Sys2Proof/Config.lean ====
section
/-! DEFINITION. What an implementation fixes and what the spec leaves free (00_scope.md R5, 93_implementation_defined.md).
The free values have no body: no proof can see what they are. -/

namespace Sys2Proof

/-- A transport error payload: an opaque value of `ERR_W` bits (00_scope.md R5, R8, D14). A natural number holds it;
that it has `ERR_W` bits is seen to where it enters the block. [DESIGN CHOICE, entry 9, safe] -/
abbrev ErrPayload := Nat

/-- A write acknowledgment: an opaque value of `ACK_W` bits (00_scope.md R5, R8, D14, U1), held as an error payload is.
[DESIGN CHOICE, entry 9, safe] -/
abbrev AckPayload := Nat

/-- The open widths of the two opaque payloads (00_scope.md R5, D14). -/
structure Widths where
  /-- `ERR_W`, the width of the transport error payload. -/
  errW : Nat
  /-- `ACK_W`, the width of the write acknowledgment. -/
  ackW : Nat
deriving DecidableEq, Repr

/-- The defaults the spec names for `ERR_W` and `ACK_W` (00_scope.md R5, D14), which `State.reset` is written with. -/
def Config.defaultWidths : Widths := { errW := 8, ackW := 1 }

/-- The strapped configuration `CFG_ADDR`, `CFG_REG`, `CFG_BUS`: opaque values of any width, passed through and never
interpreted (10_state.md R20). -/
structure Cfg where
  /-- `CFG_ADDR`, the device address. -/
  addr : Nat
  /-- `CFG_REG`, the device register identifier. -/
  register : Nat
  /-- `CFG_BUS`, the bus or block selector. -/
  bus : Nat
deriving DecidableEq, Repr

/-- The strapped values `State.reset` is written with. The spec leaves them open (R20, D15); nothing may rest on them.
[DESIGN CHOICE, entry 8, unsafe] -/
def Config.strapped : Cfg := { addr := 0, register := 0, bus := 0 }

/-- The device register's value `State.reset` is written with, for the spec's open parameter `REG_RESET`
(70_reset_and_hazards.md R132, D17). Zero is not a legal byte, so nothing here assumes a legal power-up value.
[DESIGN CHOICE, entry 7, unsafe] -/
def Config.regReset : Byte := 0x00#8

/-- The acknowledgment of the ideal device, `Ack(1)` (20_memory.md R35). -/
def Config.idealAck : AckPayload := 1

/-- The byte the device register holds after a failed write or an abandoned one: any 8-bit value (20_memory.md R36,
70_reset_and_hazards.md R131, U3). A free value, drawn with `State.draws`. [DESIGN CHOICE, entry 10, safe] -/
opaque Config.unknownReg : Nat → Byte

/-- What the four request latches hold after a reset of the block, as one request word: unspecified (10_state.md R27,
U6). A free value, drawn with `State.draws`. [DESIGN CHOICE, entry 11, safe] -/
opaque Config.latchesAfterReset : Nat → ReqWord

/-- What `RD_BYTE` holds after a reset of the block: unspecified (10_state.md R27, U6). A free value, drawn with
`State.draws`. [DESIGN CHOICE, entry 11, safe] -/
opaque Config.rdByteAfterReset : Nat → Byte

end Sys2Proof
end

