-- ==== Sys2Proof/Syntax.lean ====
section
/-! DEFINITION. The abstract values of 00_scope.md R8, the request's fields (30_encoding.md R50) and the six instruction
forms (R55), one constructor per row of spec/opcode_table.json. -/

namespace Sys2Proof

/-- `RelayState` = `ON | OFF`; "No other values are legal." (00_scope.md R8) -/
inductive RelayState where
  | on
  | off
deriving DecidableEq, Repr

/-- `Channel` = `Ch(0) | Ch(1) | Ch(2) | Ch(3) | ALL` (00_scope.md R8). -/
inductive Channel where
  | ch (ordinal : Fin 4)
  | all
deriving DecidableEq, Repr

/-- `ChannelStateVector`: exactly 4 relay states, index = channel ordinal (00_scope.md R8). -/
abbrev ChannelStateVector := Vector RelayState 4

/-- The four fields of a request word (30_encoding.md R50). -/
structure Request where
  /-- `op`, bit 11: 0 is GET, 1 is SET (R51). -/
  op : BitVec 1
  /-- `st`, bits 10:9: the requested state, used by SET only (R53). -/
  st : BitVec 2
  /-- `all`, bit 8: 1 is the sentinel ALL (R52). -/
  all : BitVec 1
  /-- `idx`, bits 7:0: the channel ordinal, used when `all` is 0 (R52). -/
  idx : Byte
deriving DecidableEq, Repr

/-- The six instruction forms (30_encoding.md R55). Each carries every field its row does not fix, the ignored ones
too: ACCEPT latches `st` and `idx` as the request carried them (10_state.md R14, R15, R25). In the three channel forms
`idx` is the whole 8-bit field; its value is at most 3 in a well-formed instruction. -/
inductive Instr where
  /-- `GET ch` (41_get.md R84). -/
  | getCh (idx : Byte) (st : BitVec 2)
  /-- `GET all` (41_get.md R85). -/
  | getAll (idx : Byte) (st : BitVec 2)
  /-- `SET ch,off` (42_set.md R94). -/
  | setChOff (idx : Byte)
  /-- `SET ch,on` (42_set.md R93). -/
  | setChOn (idx : Byte)
  /-- `SET all,off` (42_set.md R96). -/
  | setAllOff (idx : Byte)
  /-- `SET all,on` (42_set.md R95). -/
  | setAllOn (idx : Byte)
deriving DecidableEq, Repr

end Sys2Proof
end

