-- ==== Sys2Proof/Machine/State.lean ====
section
/-! DEFINITION. The state of the block, of the device register behind it and of the interfaces between the two, as plain
data; its value after reset; and the reasons a step can stop (10_state.md, 20_memory.md, 30_encoding.md sections 5 and 6). -/

namespace Sys2Proof.Machine

/-- `PHASE`: the position inside an operation, in place of a program counter (10_state.md R12). -/
inductive Phase where
  /-- `IDLE`: no operation in progress; a request can be accepted. -/
  | idle
  /-- `RD_PEND`: a read has been issued and its result has not come back. -/
  | rdPend
  /-- `WR_PEND`: a SET has issued its write and the result has not come back. -/
  | wrPend
deriving DecidableEq, Repr

/-- `ReadResult` = `Val(b) | Err(e)`, what `readByte` answers (00_scope.md R8, 20_memory.md R32). -/
inductive ReadResult where
  | val (b : Byte)
  | err (e : ErrPayload)
deriving DecidableEq, Repr

/-- `WriteResult` = `Ack(a) | Err(e)`, what `writeByte` answers (00_scope.md R8, 20_memory.md R33). -/
inductive WriteResult where
  | ack (a : AckPayload)
  | err (e : ErrPayload)
deriving DecidableEq, Repr

/-- What a transport may hand its adapter as the result of a read, before the adapter has made it fit the 8-bit read
port (20_memory.md R32, D13). -/
inductive RawRead where
  /-- One byte. -/
  | byte (b : Byte)
  /-- A result that is not a byte at all: an error text, a truncated read. -/
  | notAByte
  /-- A failure the transport signals as such. -/
  | failure (e : ErrPayload)
deriving DecidableEq, Repr

/-- A write coming back: the result, and the byte the device then holds where that is not what 10_state.md R26 (the byte
sent, on `Ack`) and 20_memory.md R36 (any byte, on `Err`) say. `none` leaves it to those two rules; `some v` is a device
that holds `v` (20_memory.md R37, 70_reset_and_hazards.md R143, U12). [DESIGN CHOICE, entry 20, safe] -/
structure WriteReturn where
  result : WriteResult
  held : Option Byte
deriving DecidableEq, Repr

/-- A call the block makes of its transport, with the configuration it presents (20_memory.md R34, 30_encoding.md R60). -/
inductive Call where
  /-- `MemRead(REGLOC, 1)`. -/
  | read (cfg : Cfg)
  /-- `MemWrite(REGLOC, 1, data)`; `data` is `wr_data[7:0]`. -/
  | write (cfg : Cfg) (data : Byte)
deriving DecidableEq, Repr

/-- The four errors (60_exceptions.md R110). -/
inductive Error where
  | invalidChannel
  | invalidState
  | invalidRegisterByte
  /-- With the transport's payload, unchanged (R114). -/
  | transportError (e : ErrPayload)
deriving DecidableEq, Repr

/-- The response to an accepted request, as the sum of 30_encoding.md R58. -/
inductive Response where
  /-- `GET ch`, status OK. -/
  | okGetOne (v : RelayState)
  /-- `GET all`, status OK. -/
  | okGetAll (v : ChannelStateVector)
  /-- `SET`, status OK: the byte sent and the transport's acknowledgment, unchanged. -/
  | okSet (wbyte : Byte) (ack : AckPayload)
  /-- Any other status. -/
  | failed (e : Error)
deriving DecidableEq, Repr

/-- The fields of a response as driven (30_encoding.md R58). -/
structure ResponseFields where
  status : BitVec 3
  rdata : BitVec 4
  wbyte : Byte
  ack : AckPayload
  terr : ErrPayload
deriving DecidableEq, Repr

/-- One turn of the environment: which agent moves in a step, and with what (10_state.md R25, 20_memory.md R32 to R40).
[DESIGN CHOICE, entry 3, safe] -/
inductive Turn where
  /-- The requester presents a request word; it waits until it is accepted (10_state.md R17). -/
  | present (w : ReqWord)
  /-- The block is given the step: ACCEPT of the first waiting word, if the block is in IDLE. -/
  | accept
  /-- The transport answers the read the block awaits, with any result (20_memory.md R32, R37). -/
  | readReturn (raw : RawRead)
  /-- The transport answers the read as the ideal device does (R35). -/
  | readIdeal
  /-- A result of the read of an abandoned operation arrives late (70_reset_and_hazards.md R131). -/
  | lateRead (raw : RawRead)
  /-- The transport answers the write the block awaits, with any result (R33, R37). -/
  | writeReturn (ret : WriteReturn)
  /-- The transport answers the write as the ideal device does (R35). -/
  | writeIdeal
  /-- A result of the write of an abandoned operation arrives late (70_reset_and_hazards.md R131). -/
  | lateWrite (result : WriteResult)
  /-- Another agent stores any byte, legal or not, in the device register (R40, D29). -/
  | otherWrite (v : Byte)
  /-- The block is reset (70_reset_and_hazards.md R130, R131). -/
  | blockReset
  /-- Nothing happens: a transport that does not answer, for this step (60_exceptions.md R118). -/
  | wait
deriving DecidableEq, Repr

/-- What the transport does once the listed turns are used up. [DESIGN CHOICE, entry 4, unsafe] -/
inductive Transport where
  /-- It answers as the ideal device (20_memory.md R35). -/
  | ideal
  /-- It never answers, and an operation hangs (60_exceptions.md R118, 70_reset_and_hazards.md R139). -/
  | silent
deriving DecidableEq, Repr

/-- The machine: the block, the device register behind its transport, and what crosses the interfaces. -/
structure State where
  /-- `PHASE` (10_state.md R12). -/
  phase : Phase
  /-- `REQ_OP`, 1 bit (R13). -/
  reqOp : BitVec 1
  /-- `REQ_ALL`, 1 bit (R14). -/
  reqAll : BitVec 1
  /-- `REQ_IDX`, 8 bits (R14). -/
  reqIdx : Byte
  /-- `REQ_ST`, 2 bits (R15). -/
  reqSt : BitVec 2
  /-- `RD_BYTE`, 8 bits (R16). -/
  rdByte : Byte
  /-- `REG`, the device's one register byte, held by the relay board (R18, R19). -/
  reg : Byte
  /-- `CFG_ADDR`, `CFG_REG`, `CFG_BUS`, strapped (R20). -/
  cfg : Cfg
  /-- `ERR_W` and `ACK_W`, fixed for the block (00_scope.md R5). -/
  widths : Widths
  /-- The transport's read result on the block's input, while an event consumes it (30_encoding.md R60). -/
  rdPort : Option ReadResult
  /-- The transport's write result on the block's input, while an event consumes it (30_encoding.md R60). -/
  wrPort : Option WriteReturn
  /-- The request words presented and not yet accepted, the next one first (10_state.md R17). -/
  requests : List ReqWord
  /-- The responses given, newest first (30_encoding.md R58). -/
  responses : List Response
  /-- The transport calls issued, newest first (20_memory.md R43). -/
  calls : List Call
  /-- The calls of abandoned operations whose results have not come back, the oldest first (70_reset_and_hazards.md R131). -/
  abandoned : List Call
  /-- The model's own: the turns of the environment still to come, the next one first. -/
  world : List Turn
  /-- The model's own: what the transport does once `world` is used up. -/
  transport : Transport
  /-- The model's own: how many free values have been drawn. -/
  draws : Nat
deriving DecidableEq, Repr

/-- The state after reset, for a device register that holds `regReset` (the open parameter `REG_RESET`,
70_reset_and_hazards.md R132), a configuration strapped to `cfg` (10_state.md R27) and the payload widths `widths`
(00_scope.md R5). The latches are unspecified and unread until written: zero here. [DESIGN CHOICE, entries 4, 6 and 10, unsafe] -/
def State.resetWith (regReset : Byte) (cfg : Cfg) (widths : Widths) : State :=
  { phase := .idle, reqOp := 0#1, reqAll := 0#1, reqIdx := 0x00#8, reqSt := 0b00#2, rdByte := 0x00#8,
    reg := regReset, cfg := cfg, widths := widths, rdPort := none, wrPort := none, requests := [], responses := [],
    calls := [], abandoned := [], world := [], transport := .ideal, draws := 0 }

/-- The machine right after reset (10_state.md R27, 70_reset_and_hazards.md R130), at the values Config names for the
open parameters: the spec's defaults for the widths, and its own for the others. [DESIGN CHOICE, entries 7 and 8, unsafe] -/
def State.reset : State := State.resetWith Config.regReset Config.strapped Config.defaultWidths

/-- The reasons the model stops with a fault. Neither is reached from `State.reset`. -/
inductive Fault where
  /-- Raised by the fetch of an operation in progress whose latches hold no legal request. 10_state.md R14 and R15 say
  that cannot be. Safe: the spec gives such a state no event. -/
  | latchesNotLegal
  /-- Raised by a GET in WR_PEND. Only a SET issues a write (10_state.md R25), so no run reaches it. Safe: the spec gives
  such a state no event. -/
  | writePendingForGet
deriving DecidableEq, Repr

/-- The reasons the model refuses an instruction. No arm of `exec` uses it: every form has its meaning. -/
inductive Refusal where
  /-- An instruction without a meaning, by its mnemonic. Safe: a refused step proves nothing. -/
  | notModelled (mnemonic : String)
deriving DecidableEq, Repr

/-- What one step does: run an instruction's meaning on a state, or be over without one. -/
inductive Action where
  /-- Run the meaning of `i` on `s`. -/
  | run (i : Instr) (s : State)
  /-- No instruction runs in this step. -/
  | done (o : Host.Outcome State Fault Refusal)

end Sys2Proof.Machine
end

