-- ==== Sys2Proof/Machine/Flags.lean ====
section
/-! DEFINITION. The block has no status flags (10_state.md R21); its outcome is the response. Here are the test that
decides it on the byte read (40_validate.md R73) and the response's fields as driven (30_encoding.md R58, R59). -/

namespace Sys2Proof.Machine

/-- `legal(b) = (b[7:4] == 0xF)` (40_validate.md R73, R74). -/
def legal (b : Byte) : Bool := b.extractLsb' 4 4 == 0xF#4

/-- The status code of an error (30_encoding.md R58, 60_exceptions.md R110). -/
def statusOfError : Error → BitVec 3
  | .invalidChannel => 1#3
  | .invalidState => 2#3
  | .invalidRegisterByte => 3#3
  | .transportError _ => 4#3

/-- The status code of a response: 0 is OK (30_encoding.md R58). -/
def statusOf : Response → BitVec 3
  | .failed e => statusOfError e
  | .okGetOne _ => 0#3
  | .okGetAll _ => 0#3
  | .okSet _ _ => 0#3

/-- A relay state as a bit of `rdata`: 1 = ON, 0 = OFF, the logical sense (30_encoding.md R59). -/
def rdataBit : RelayState → BitVec 1
  | .on => 1#1
  | .off => 0#1

/-- `rdata` of a vector: bit `i` is the state of channel `i` (30_encoding.md R59, 41_get.md R83). -/
def rdataOf (v : ChannelStateVector) : BitVec 4 :=
  rdataBit v[3] ++ rdataBit v[2] ++ rdataBit v[1] ++ rdataBit v[0]

/-- The payload `terr` of an error: the transport's, unchanged, and 0 for the other three (30_encoding.md R58). -/
def terrOf : Error → ErrPayload
  | .transportError e => e
  | .invalidChannel => 0
  | .invalidState => 0
  | .invalidRegisterByte => 0

/-- The fields of a response as driven; those that do not belong to it are 0 (30_encoding.md R58, R59). -/
def fieldsOf (r : Response) : ResponseFields :=
  match r with
  | .okGetOne v => { status := statusOf r, rdata := (rdataBit v).zeroExtend 4, wbyte := 0#8, ack := 0, terr := 0 }
  | .okGetAll v => { status := statusOf r, rdata := rdataOf v, wbyte := 0#8, ack := 0, terr := 0 }
  | .okSet wbyte ack => { status := statusOf r, rdata := 0#4, wbyte := wbyte, ack := ack, terr := 0 }
  | .failed e => { status := statusOf r, rdata := 0#4, wbyte := 0#8, ack := 0, terr := terrOf e }

end Sys2Proof.Machine
end

