-- ==== Sys2Proof/WellFormed.lean ====
section
/-! DEFINITION. Well-formed instructions: the values the encoding of each form admits (30_encoding.md R55). -/

namespace Sys2Proof

/-- `idx[7:2] = 0`: the ordinal of a channel form is 0 to 3 (30_encoding.md R55, 41_get.md R84). -/
def isOrdinal (idx : Byte) : Bool := idx.extractLsb' 2 6 == 0#6

/-- A channel form holds a channel ordinal; an ALL form takes any `idx`, and a GET any `st` (30_encoding.md R55, R56). -/
def Instr.wellFormed : Instr → Bool
  | .getCh idx _ => isOrdinal idx
  | .getAll _ _ => true
  | .setChOff idx => isOrdinal idx
  | .setChOn idx => isOrdinal idx
  | .setAllOff _ => true
  | .setAllOn _ => true

end Sys2Proof
end

