-- ==== Sys2Proof/Decode.lean ====
section
/-! DEFINITION. Decoding a request word (30_encoding.md R50 to R57), total on all 4096 words, and the encoder. An illegal
word is rejected by the name of the error the block answers it with (R57). -/

namespace Sys2Proof

/-- The fields of a request word: `{op[11], st[10:9], all[8], idx[7:0]}` (30_encoding.md R50). -/
def Request.ofWord (w : ReqWord) : Request :=
  { op := w.extractLsb' 11 1, st := w.extractLsb' 9 2, all := w.extractLsb' 8 1, idx := w.extractLsb' 0 8 }

/-- The word that holds these fields (30_encoding.md R50). -/
def Request.toWord (r : Request) : ReqWord := r.op ++ r.st ++ r.all ++ r.idx

/-- `chan(all, idx)`: ALL, a channel ordinal, or invalid (30_encoding.md R52). -/
def chan (all : BitVec 1) (idx : Byte) : Option Channel :=
  if all = 1#1 then some .all
  else if h : idx.toNat < 4 then some (.ch ⟨idx.toNat, h⟩)
  else none

/-- `state(st)`: OFF, ON, or invalid (30_encoding.md R53). -/
def stateOf (st : BitVec 2) : Option RelayState :=
  if st = 0b00#2 then some .off
  else if st = 0b01#2 then some .on
  else none

/-- `validChannel(all, idx)` (40_validate.md R70). -/
def validChannel (all : BitVec 1) (idx : Byte) : Bool := all == 1#1 || decide (idx.toNat ≤ 3)

/-- `validState(st)` (40_validate.md R71). -/
def validState (st : BitVec 2) : Bool := st == 0b00#2 || st == 0b01#2

/-- Why a request word is none of the six forms (30_encoding.md R57). -/
inductive DecodeError where
  /-- `all = 0` and `idx >= 4`, any `op`, any `st`. -/
  | invalidChannel
  /-- Otherwise, `op = 1` and `st[1] = 1`. -/
  | invalidState
deriving DecidableEq, Repr

/-- What the decoder makes of a request word. -/
inductive Decoded where
  | ok (i : Instr)
  | illegal (e : DecodeError)
deriving DecidableEq, Repr

/-- The form a request belongs to, or the error it gives: the channel is checked before the state, and the state of a
SET only (30_encoding.md R55 to R57; 60_exceptions.md R117, D10). [UNVERIFIED: the spec's own decision D10, entry 14, unsafe] -/
def decodeRequest (r : Request) : Decoded :=
  match chan r.all r.idx with
  | none => .illegal .invalidChannel
  | some c =>
    if r.op = 0#1 then
      match c with
      | .ch _ => .ok (.getCh r.idx r.st)
      | .all => .ok (.getAll r.idx r.st)
    else
      match stateOf r.st, c with
      | none, _ => .illegal .invalidState
      | some .off, .ch _ => .ok (.setChOff r.idx)
      | some .on, .ch _ => .ok (.setChOn r.idx)
      | some .off, .all => .ok (.setAllOff r.idx)
      | some .on, .all => .ok (.setAllOn r.idx)

/-- Decode a request word (30_encoding.md R55, R57). -/
def decode (w : ReqWord) : Decoded := decodeRequest (Request.ofWord w)

/-- The instruction a word decodes to, if it is legal. -/
def Decoded.toOption : Decoded → Option Instr
  | .ok i => some i
  | .illegal _ => none

/-- The fields of each form's request word (30_encoding.md R55). -/
def Instr.request : Instr → Request
  | .getCh idx st => { op := 0#1, st := st, all := 0#1, idx := idx }
  | .getAll idx st => { op := 0#1, st := st, all := 1#1, idx := idx }
  | .setChOff idx => { op := 1#1, st := 0b00#2, all := 0#1, idx := idx }
  | .setChOn idx => { op := 1#1, st := 0b01#2, all := 0#1, idx := idx }
  | .setAllOff idx => { op := 1#1, st := 0b00#2, all := 1#1, idx := idx }
  | .setAllOn idx => { op := 1#1, st := 0b01#2, all := 1#1, idx := idx }

/-- The request word of an instruction (30_encoding.md R50, R55). -/
def encode (i : Instr) : ReqWord := i.request.toWord

/-- The word whose bits are the number `w`, read as `nbits` bits: bits at and above `nbits` are 0, and a number with a bit
above bit 11 is no request word (30_encoding.md R50, R61). [DEDUCED, entry 22, safe] -/
def tableWord (nbits w : Nat) : Option ReqWord :=
  if w % 2 ^ nbits < 4096 then some (BitVec.ofNat 12 (w % 2 ^ nbits)) else none

/-- The instruction the decoder reads from the table's bits `w`. -/
def decodeTableWord (nbits w : Nat) : Option Instr :=
  match tableWord nbits w with
  | some v => (decode v).toOption
  | none => none

/-- One row of the opcode map: a word `w` matches when `(w AND mask) == pattern` (30_encoding.md R55). -/
structure OpcodeRow where
  /-- The row's mnemonic in spec/opcode_table.json. -/
  mnemonic : String
  /-- The column `match`. -/
  pattern : ReqWord
  /-- The column `mask`. -/
  mask : ReqWord
deriving DecidableEq, Repr

/-- A word belongs to a row (30_encoding.md R55). -/
def OpcodeRow.matches (row : OpcodeRow) (w : ReqWord) : Bool := w &&& row.mask == row.pattern

/-- The six rows of the opcode map, in its order (30_encoding.md R55). The decoder does not read them: that the two agree
is a statement. -/
def opcodeTable : List OpcodeRow :=
  [ { mnemonic := "GET_ch", pattern := 0x000#12, mask := 0x9FC#12 },
    { mnemonic := "GET_all", pattern := 0x100#12, mask := 0x900#12 },
    { mnemonic := "SET_ch_off", pattern := 0x800#12, mask := 0xFFC#12 },
    { mnemonic := "SET_ch_on", pattern := 0xA00#12, mask := 0xFFC#12 },
    { mnemonic := "SET_all_off", pattern := 0x900#12, mask := 0xF00#12 },
    { mnemonic := "SET_all_on", pattern := 0xB00#12, mask := 0xF00#12 } ]

/-- The row of the opcode map an instruction stands for. -/
def Instr.row : Instr → OpcodeRow
  | .getCh _ _ => { mnemonic := "GET_ch", pattern := 0x000#12, mask := 0x9FC#12 }
  | .getAll _ _ => { mnemonic := "GET_all", pattern := 0x100#12, mask := 0x900#12 }
  | .setChOff _ => { mnemonic := "SET_ch_off", pattern := 0x800#12, mask := 0xFFC#12 }
  | .setChOn _ => { mnemonic := "SET_ch_on", pattern := 0xA00#12, mask := 0xFFC#12 }
  | .setAllOff _ => { mnemonic := "SET_all_off", pattern := 0x900#12, mask := 0xF00#12 }
  | .setAllOn _ => { mnemonic := "SET_all_on", pattern := 0xB00#12, mask := 0xF00#12 }

end Sys2Proof
end

