-- ==== Sys2Proof/Machine/Operands.lean ====
section
/-! DEFINITION. The pure functions on the register byte: the decoder and channel multiplexer of GET (41_get.md), the mask
builder and encoder of SET (42_set.md). All arithmetic is bitwise on 8-bit unsigned values (R98). -/

namespace Sys2Proof.Machine

/-- `gbit(c) = 3 - c`: the register bit GET reads for channel `c` (00_scope.md R5, 41_get.md R81).
[UNVERIFIED: the spec's own decision D8 on its conflict C1, entry 12, unsafe] -/
def gbit (c : Nat) : Nat := 3 - c

/-- `sbit(c) = c`: the register bit SET changes for channel `c` (00_scope.md R5, 42_set.md R91).
[UNVERIFIED: the spec's own decision D8 on its conflict C1, entry 12, unsafe] -/
def sbit (c : Nat) : Nat := c

/-- `rev4(n)[i] = n[3 - i]` (00_scope.md R6). -/
def rev4 (n : BitVec 4) : BitVec 4 :=
  n.extractLsb' 0 1 ++ n.extractLsb' 1 1 ++ n.extractLsb' 2 1 ++ n.extractLsb' 3 1

/-- `NOT_8(m) = 0xFF - m`: the complement over 8 bits (00_scope.md R6, 42_set.md R98). -/
def not8 (m : Byte) : Byte := 0xFF#8 - m

/-- A register bit as a relay state: "bit = 1 → OFF, bit = 0 → ON" (41_get.md R81, 10_state.md R19).
[UNVERIFIED: the spec's own decision D9 on its conflict C2, entry 13, unsafe] -/
def relayOfBit (bit : Bool) : RelayState := if bit then .off else .on

/-- `decode(b)`: the state of each channel `i`, read at register bit `gbit(i)` (41_get.md R81). -/
def decodeStates (b : Byte) : ChannelStateVector :=
  Vector.ofFn fun i : Fin 4 => relayOfBit (b.getLsbD (gbit i.val))

/-- `select(v, all, idx)` with `all = 0`: the element of the requested channel, `ch = idx[1:0]` (41_get.md R83, R84). -/
def selectOne (v : ChannelStateVector) (idx : Byte) : RelayState := v.get (idx.extractLsb' 0 2).toFin

/-- `mask(all, idx)`: a 1 at every register bit the SET forces (42_set.md R91). -/
def mask (all : BitVec 1) (idx : Byte) : Byte :=
  if all = 1#1 then 0x0F#8 else 0x01#8 <<< sbit idx.toNat

/-- `newbyte`: ON clears the target bits, OFF sets them, every other bit stays (42_set.md R92). -/
def newByte (b : Byte) (all : BitVec 1) (idx : Byte) (state : RelayState) : Byte :=
  match state with
  | .on => b &&& not8 (mask all idx)
  | .off => b ||| mask all idx

end Sys2Proof.Machine
end

