-- ==== Sys2Proof/Machine/Ops.lean ====
section
/-! DEFINITION. The named operations on the state: issuing transport calls, responding, raising an error (the block's one
kind of exception, 60_exceptions.md R115; there is none to return from, R119), the three events of 10_state.md R25, the
reset of the block, and the two procedures, GET and SET, that the six forms are instances of. -/

namespace Sys2Proof.Machine

/-- Issue `MemRead(REGLOC, 1)`: the configuration is presented unchanged and the block waits in RD_PEND (10_state.md R25,
20_memory.md R34). -/
def issueRead (s : State) : State := { s with calls := .read s.cfg :: s.calls, phase := .rdPend }

/-- Issue `MemWrite(REGLOC, 1, v)`: the configuration is presented unchanged and the block waits in WR_PEND (10_state.md
R25, 20_memory.md R34). -/
def issueWrite (v : Byte) (s : State) : State := { s with calls := .write s.cfg v :: s.calls, phase := .wrPend }

/-- End the operation with a response and go to IDLE (10_state.md R25, 30_encoding.md R58). -/
def respond (r : Response) (s : State) : State := { s with responses := r :: s.responses, phase := .idle }

/-- `raise E(info)`: the response carries the error, PHASE goes to IDLE, nothing else changes (60_exceptions.md R115). -/
def raise (e : Error) (s : State) : State := respond (.failed e) s

/-- Latch the four fields of an accepted request (10_state.md R13 to R15, R25). -/
def latch (r : Request) (s : State) : State :=
  { s with reqOp := r.op, reqAll := r.all, reqIdx := r.idx, reqSt := r.st }

/-- The request the latches hold, as its word (10_state.md R13 to R15). -/
def latchedWord (s : State) : ReqWord :=
  Request.toWord { op := s.reqOp, st := s.reqSt, all := s.reqAll, idx := s.reqIdx }

/-- The event ACCEPT(req): the channel check, then for a SET the state check, then the latches and the read (10_state.md
R25, 40_validate.md R72, 60_exceptions.md R117). -/
def accept (r : Request) (s : State) : State :=
  if validChannel r.all r.idx then
    if r.op = 1#1 ∧ validState r.st = false then raise .invalidState s
    else issueRead (latch r s)
  else raise .invalidChannel s

/-- The event READ_RETURN(res) on the result at the read port, `onLegal` being what the operation does with a legal byte
(10_state.md R25, 40_validate.md R73). With no result at the port the block waits (60_exceptions.md R118). -/
def readReturn (onLegal : Byte → State → State) (s : State) : State :=
  match s.rdPort with
  | none => s
  | some (.err e) => raise (.transportError e) { s with rdPort := none }
  | some (.val b) =>
    if legal b then onLegal b { s with rdPort := none, rdByte := b }
    else raise .invalidRegisterByte { s with rdPort := none, rdByte := b }

/-- The device register takes any byte: a free value (20_memory.md R36). [DESIGN CHOICE, entry 10, safe] -/
def loseReg (s : State) : State := { s with reg := Config.unknownReg s.draws, draws := s.draws + 1 }

/-- What a write of `sent` that comes back leaves in the device register: the byte sent if it was acknowledged
(10_state.md R26, 20_memory.md R42), any byte if it failed (R36), unless the device holds a byte of its own choosing
(R37, 70_reset_and_hazards.md R143). -/
def deviceAfterWrite (sent : Byte) (ret : WriteReturn) (s : State) : State :=
  match ret.held, ret.result with
  | some v, _ => { s with reg := v }
  | none, .ack _ => { s with reg := sent }
  | none, .err _ => loseReg s

/-- The response a SET makes of its write's result (10_state.md R25): the byte sent and the acknowledgment, or the
transport's error, unchanged. -/
def answerWrite (sent : Byte) (result : WriteResult) (s : State) : State :=
  match result with
  | .ack a => respond (.okSet sent a) s
  | .err e => raise (.transportError e) s

/-- The event WRITE_RETURN(res) on the result at the write port, for a write of `sent` (10_state.md R25, R26). With no
result at the port the block waits (60_exceptions.md R118). -/
def writeReturn (sent : Byte) (s : State) : State :=
  match s.wrPort with
  | none => s
  | some ret => answerWrite sent ret.result (deviceAfterWrite sent ret { s with wrPort := none })

/-- GET: its events in the order the phase gives, `answer` being the response to a legal byte (41_get.md R80). -/
def getOperation (r : Request) (answer : Byte → Response) (s : State) : Host.Outcome State Fault Refusal :=
  match s.phase with
  | .idle => .next (accept r s)
  | .rdPend => .next (readReturn (fun b t => respond (answer b) t) s)
  | .wrPend => .fault .writePendingForGet

/-- SET: its events in the order the phase gives, `encodeByte` making the byte to write from the byte read (42_set.md R90,
section 4). The write is unconditional (20_memory.md R44) and is made from `RD_BYTE` (10_state.md R16). -/
def setOperation (r : Request) (encodeByte : Byte → Byte) (s : State) : Host.Outcome State Fault Refusal :=
  match s.phase with
  | .idle => .next (accept r s)
  | .rdPend => .next (readReturn (fun b t => issueWrite (encodeByte b) t) s)
  | .wrPend => .next (writeReturn (encodeByte s.rdByte) s)

/-- What a port of `width` bits carries of a number: its low `width` bits (30_encoding.md R60). A payload of that width is
unchanged. [DEDUCED, entry 9, safe] -/
def onWires (width payload : Nat) : Nat := payload % 2 ^ width

/-- The transport adapter: what is not a byte is presented as `Val(0x00)`, and an error payload has `ERR_W` bits
(20_memory.md R32, D13; 30_encoding.md R60). -/
def adapt (w : Widths) : RawRead → ReadResult
  | .byte b => .val b
  | .notAByte => .val 0x00#8
  | .failure e => .err (onWires w.errW e)

/-- A write's result at the block's port: the acknowledgment has `ACK_W` bits, an error payload `ERR_W` (20_memory.md R33,
30_encoding.md R60). -/
def adaptWrite (w : Widths) : WriteResult → WriteResult
  | .ack a => .ack (onWires w.ackW a)
  | .err e => .err (onWires w.errW e)

/-- Whether a transport call is a read. -/
def Call.isRead : Call → Bool
  | .read _ => true
  | .write _ _ => false

/-- Whether a transport call is a write. -/
def Call.isWrite : Call → Bool
  | .read _ => false
  | .write _ _ => true

/-- The call whose result the block awaits, if it awaits one: the last call issued (10_state.md R12). -/
def outstanding (s : State) : List Call :=
  match s.phase with
  | .idle => []
  | .rdPend => s.calls.head?.toList
  | .wrPend => s.calls.head?.toList

/-- A result of an abandoned call arrives: it is discarded, in every phase, and the oldest such call is waited for no
longer (70_reset_and_hazards.md R131). [DEDUCED, entry 17, safe] -/
def discardLate (ofKind : Call → Bool) (s : State) : State := { s with abandoned := s.abandoned.eraseP ofKind }

/-- The latches and `RD_BYTE` hold anything: free values (10_state.md R27, U6). [DESIGN CHOICE, entry 11, safe] -/
def loseLatches (s : State) : State :=
  { latch (Request.ofWord (Config.latchesAfterReset s.draws)) s with
    rdByte := Config.rdByteAfterReset s.draws, draws := s.draws + 1 }

/-- Reset of the block: IDLE, latches unspecified, nothing pending, no transport call and no response; the call
outstanding, if any, is abandoned; a write that was issued and had not come back leaves the device register unknown (70_reset_and_hazards.md R130, R131; 10_state.md R27). -/
def blockReset (s : State) : State :=
  let t := if s.phase = .wrPend then loseReg s else s
  { loseLatches t with
    phase := .idle, rdPort := none, wrPort := none, abandoned := s.abandoned ++ outstanding s }

end Sys2Proof.Machine
end

