-- ==== Sys2Proof/Machine/Get.lean ====
section
/-! DEFINITION. The two GET forms (41_get.md). -/

namespace Sys2Proof.Machine

/-- `GET ch`: one read, answers the state of the requested channel, register bit `3 - ch` (41_get.md R84). -/
def execGetCh (idx : Byte) (st : BitVec 2) (s : State) : Host.Outcome State Fault Refusal :=
  getOperation (Instr.getCh idx st).request (fun b => .okGetOne (selectOne (decodeStates b) idx)) s

/-- `GET all`: one read, answers the whole vector in channel order (41_get.md R85). -/
def execGetAll (idx : Byte) (st : BitVec 2) (s : State) : Host.Outcome State Fault Refusal :=
  getOperation (Instr.getAll idx st).request (fun b => .okGetAll (decodeStates b)) s

end Sys2Proof.Machine
end

