-- ==== Sys2Proof/Machine/Set.lean ====
section
/-! DEFINITION. The four SET forms (42_set.md). -/

namespace Sys2Proof.Machine

/-- `SET ch,off`: register bit `ch` becomes 1, the other seven stay (42_set.md R94). -/
def execSetChOff (idx : Byte) (s : State) : Host.Outcome State Fault Refusal :=
  setOperation (Instr.setChOff idx).request (fun b => newByte b 0#1 idx .off) s

/-- `SET ch,on`: register bit `ch` becomes 0, the other seven stay (42_set.md R93). -/
def execSetChOn (idx : Byte) (s : State) : Host.Outcome State Fault Refusal :=
  setOperation (Instr.setChOn idx).request (fun b => newByte b 0#1 idx .on) s

/-- `SET all,off`: the four low bits become 1, the others stay (42_set.md R96). -/
def execSetAllOff (idx : Byte) (s : State) : Host.Outcome State Fault Refusal :=
  setOperation (Instr.setAllOff idx).request (fun b => newByte b 1#1 idx .off) s

/-- `SET all,on`: the four low bits become 0, the others stay (42_set.md R95). -/
def execSetAllOn (idx : Byte) (s : State) : Host.Outcome State Fault Refusal :=
  setOperation (Instr.setAllOn idx).request (fun b => newByte b 1#1 idx .on) s

end Sys2Proof.Machine
end

