-- ==== Sys2Proof/Machine/Dispatch.lean ====
section
/-! DEFINITION. The meaning of each instruction form: one arm per constructor. -/

namespace Sys2Proof.Machine

-- The next event of the instruction's operation, as the phase says (10_state.md R25).
def exec (i : Instr) (s : State) : Host.Outcome State Fault Refusal :=
  match i with
  | .getCh idx st => Sys2Proof.Machine.execGetCh idx st s
  | .getAll idx st => Sys2Proof.Machine.execGetAll idx st s
  | .setChOff idx => Sys2Proof.Machine.execSetChOff idx s
  | .setChOn idx => Sys2Proof.Machine.execSetChOn idx s
  | .setAllOff idx => Sys2Proof.Machine.execSetAllOff idx s
  | .setAllOn idx => Sys2Proof.Machine.execSetAllOn idx s

end Sys2Proof.Machine
end

