-- ==== Sys2Proof/Machine/Fetch.lean ====
section
/-! DEFINITION. What a step does before any instruction's meaning runs: whose turn it is, what that turn puts at the
block's inputs, and which instruction's event it enables (10_state.md R25). The block fetches no instructions from memory
(20_memory.md R47): in IDLE the instruction is the request word presented, later it is the one the latches hold. -/

namespace Sys2Proof.Machine

/-- The operation in progress goes on: the instruction the latches hold runs its next event (10_state.md R11, R25).
[DEDUCED, entries 2 and 21, safe] -/
def resume (s : State) : Action :=
  match decode (latchedWord s) with
  | .ok i => .run i s
  | .illegal _ => .done (.fault .latchesNotLegal)

/-- ACCEPT is enabled in IDLE with a word waiting (10_state.md R17, R25). A legal word runs its instruction; an illegal one
is answered with its error by the same event (30_encoding.md R57). Otherwise nothing happens. -/
def acceptTurn (s : State) : Action :=
  match s.phase, s.requests with
  | .idle, w :: rest =>
    match decode w with
    | .ok i => .run i { s with requests := rest }
    | .illegal _ => .done (.next (accept (Request.ofWord w) { s with requests := rest }))
  | _, _ => .done (.next s)

/-- READ_RETURN is enabled in RD_PEND (10_state.md R25); a read result that comes when none is awaited is late and discarded
(70_reset_and_hazards.md R131). [DEDUCED, entry 17, safe] -/
def readTurn (res : ReadResult) (s : State) : Action :=
  if s.phase = .rdPend then resume { s with rdPort := some res }
  else .done (.next (discardLate Call.isRead s))

/-- WRITE_RETURN is enabled in WR_PEND (10_state.md R25); a write result that comes when none is awaited is late and
discarded (70_reset_and_hazards.md R131). [DEDUCED, entry 17, safe] -/
def writeTurn (ret : WriteReturn) (s : State) : Action :=
  if s.phase = .wrPend then resume { s with wrPort := some { ret with result := adaptWrite s.widths ret.result } }
  else .done (.next (discardLate Call.isWrite s))

/-- The ideal device's answer to a read: `Val(REG)`, with no side effect (20_memory.md R35). -/
def idealRead (s : State) : ReadResult := .val s.reg

/-- The ideal device's answer to a write: all 8 bits stored as given, `Ack(1)` (20_memory.md R35). -/
def idealWrite : WriteReturn := { result := .ack Config.idealAck, held := none }

/-- One turn of the environment. -/
def takeTurn (t : Turn) (s : State) : Action :=
  match t with
  | .present w => .done (.next { s with requests := s.requests ++ [w] })
  | .accept => acceptTurn s
  | .readReturn raw => readTurn (adapt s.widths raw) s
  | .readIdeal => readTurn (idealRead s) s
  | .lateRead _ => .done (.next (discardLate Call.isRead s))
  | .writeReturn ret => writeTurn ret s
  | .writeIdeal => writeTurn idealWrite s
  | .lateWrite _ => .done (.next (discardLate Call.isWrite s))
  | .otherWrite v => .done (.next { s with reg := v })
  | .blockReset => .done (.next (blockReset s))
  | .wait => .done (.next s)

/-- With no turn listed, the one event of the block that is enabled happens (70_reset_and_hazards.md R142), if its
transport answers at all. [DESIGN CHOICE, entry 4, unsafe] -/
def defaultTurn (s : State) : Turn :=
  match s.phase, s.transport with
  | .idle, _ => .accept
  | .rdPend, .ideal => .readIdeal
  | .wrPend, .ideal => .writeIdeal
  | .rdPend, .silent => .wait
  | .wrPend, .silent => .wait

/-- What the next step does: the first listed turn, or the default one. -/
def fetch (s : State) : Action :=
  match s.world with
  | [] => takeTurn (defaultTurn s) s
  | t :: rest => takeTurn t { s with world := rest }

/-- Put a request word first in line, in IDLE, with the next turn the block's: the next step is its ACCEPT. -/
def presentNext (w : ReqWord) (s : State) : State :=
  { s with phase := .idle, requests := w :: s.requests, world := .accept :: s.world }

end Sys2Proof.Machine
end

