-- ==== Sys2Proof/Machine/Step.lean ====
section
/-! DEFINITION. One step of the machine: one event of one agent (10_state.md R25, 20_memory.md R40). -/

namespace Sys2Proof.Machine

/-- One event: the turn is fetched, and if it enables an event of the block the instruction's meaning runs. -/
def step (s : State) : Host.Outcome State Fault Refusal :=
  match fetch s with
  | .run i t => exec i t
  | .done o => o

/-- The instruction whose bits are `w` presented as the next request, so that the next step accepts it. A number that is no
12-bit word presents nothing (entry 22). It stands for the requester, who presents words from outside (entry 5). -/
def State.withFetchWord (s : State) (nbits w : Nat) : State :=
  match tableWord nbits w with
  | some v => presentNext v s
  | none => s

end Sys2Proof.Machine
end

