-- ==== Sys2Proof/Machine/Requester.lean ====
section
/-! DEFINITION. The requester's side of a request: the assembler syntax (30_encoding.md R62, R63) and the mapping from the
software's argument values to codes (R64). It is outside the block; no step uses it. -/

namespace Sys2Proof.Machine

/-- `<chan>`, with the raw form `#<n>` (30_encoding.md R62). -/
inductive AsmChannel where
  | ordinal (c : Fin 4)
  | all
  | raw (n : Byte)
deriving DecidableEq, Repr

/-- `<state>`, with the raw form `?<k>` (30_encoding.md R62). -/
inductive AsmState where
  | on
  | off
  | raw (k : BitVec 2)
deriving DecidableEq, Repr

/-- A request in assembler syntax; `get none` is the pseudo-form `GET` with no operand (30_encoding.md R62, R63). -/
inductive Asm where
  | get (c : Option AsmChannel)
  | set (c : AsmChannel) (s : AsmState)
deriving DecidableEq, Repr

/-- A channel's code, the fields `all` and `idx` (30_encoding.md R52, R62). -/
def asmChannelCode : AsmChannel → BitVec 1 × Byte
  | .ordinal c => (0#1, BitVec.ofNat 8 c.val)
  | .all => (1#1, 0x00#8)
  | .raw n => (0#1, n)

/-- A state's code, the field `st` (30_encoding.md R53, R62). -/
def asmStateCode : AsmState → BitVec 2
  | .on => 0b01#2
  | .off => 0b00#2
  | .raw k => k

/-- The request word of an assembler line (30_encoding.md R50, R62, R63). A GET carries `st = 00`, as in the words of
95_test_vectors.md V-ENC. -/
def assemble : Asm → ReqWord
  | .get none => Request.toWord { op := 0#1, st := 0b00#2, all := 1#1, idx := 0x00#8 }
  | .get (some c) => Request.toWord { op := 0#1, st := 0b00#2, all := (asmChannelCode c).1, idx := (asmChannelCode c).2 }
  | .set c s =>
    Request.toWord { op := 1#1, st := asmStateCode s, all := (asmChannelCode c).1, idx := (asmChannelCode c).2 }

/-- A channel argument of the software's calls (30_encoding.md R64). Types the spec does not list are no value of this one
(N8, entry 27). -/
inductive SoftChannel where
  | integer (n : Int)
  | text (s : String)
  /-- `getState` only. -/
  | absent
deriving DecidableEq, Repr

/-- A state argument of the software's calls (30_encoding.md R64). -/
inductive SoftState where
  | text (s : String)
  /-- Any value that is no string. -/
  | other
deriving DecidableEq, Repr

/-- The fields `all` and `idx` of a software channel value: unlisted values go to the canonical invalid code `idx = 0xFF`
(30_encoding.md R64). -/
def softChannelCode : SoftChannel → BitVec 1 × Byte
  | .integer n => if 0 ≤ n ∧ n ≤ 255 then (0#1, BitVec.ofNat 8 n.toNat) else (0#1, 0xFF#8)
  | .text s => if s = "all" then (1#1, 0x00#8) else (0#1, 0xFF#8)
  | .absent => (1#1, 0x00#8)

/-- The field `st` of a software state value: unlisted values go to the canonical invalid code `0b11` (30_encoding.md
R64). -/
def softStateCode : SoftState → BitVec 2
  | .text s => if s = "off" then 0b00#2 else if s = "on" then 0b01#2 else 0b11#2
  | .other => 0b11#2

end Sys2Proof.Machine
end

