-- ==== Sys2Proof/Safety.lean ====
section
/-! DEFINITION. What counts as a sound state and run of the block, and the source's procedures as one pure function, in the
terms the statements use. -/

namespace Sys2Proof.Machine

/-- `n` steps, stopping at the first that answers no next state: `Host.Core.run` of this machine. -/
def runFor : Nat → State → Host.Outcome State Fault Refusal
  | 0, s => .next s
  | n + 1, s =>
    match step s with
    | .next t => runFor n t
    | .fault r => .fault r
    | .refused r => .refused r

/-- The configuration a transport call presented (20_memory.md R34). -/
def Call.config : Call → Cfg
  | .read cfg => cfg
  | .write cfg _ => cfg

/-- Every write has a read just before it (20_memory.md R43); the calls are newest first. -/
def readBeforeEachWrite : List Call → Bool
  | [] => true
  | .read _ :: rest => readBeforeEachWrite rest
  | .write _ _ :: rest => (rest.head?.map Call.isRead).getD false && readBeforeEachWrite rest

/-- The payloads of a response have their widths (30_encoding.md R58). -/
def Response.fits (w : Widths) : Response → Bool
  | .okGetOne _ => true
  | .okGetAll _ => true
  | .okSet _ a => decide (a < 2 ^ w.ackW)
  | .failed (.transportError e) => decide (e < 2 ^ w.errW)
  | .failed .invalidChannel => true
  | .failed .invalidState => true
  | .failed .invalidRegisterByte => true

/-- A sound state. -/
structure Sound (s : State) : Prop where
  /-- No transport result is left unconsumed between two events. -/
  ports_empty : s.rdPort = none ∧ s.wrPort = none
  /-- During an operation the latches hold a valid channel and, for a SET, a valid state (10_state.md R14, R15). -/
  latches_valid : s.phase ≠ .idle →
    validChannel s.reqAll s.reqIdx = true ∧ (s.reqOp = 1#1 → validState s.reqSt = true)
  /-- Only a SET waits for a write, and it has read a legal byte (10_state.md R25). -/
  write_of_set : s.phase = .wrPend → s.reqOp = 1#1 ∧ legal s.rdByte = true
  /-- In RD_PEND the last call issued is a read (10_state.md R12). -/
  read_outstanding : s.phase = .rdPend → s.calls.head? = some (.read s.cfg)
  /-- In WR_PEND the last call issued is the write of the new byte made from `RD_BYTE` (10_state.md R12, R16, R25). -/
  write_outstanding : s.phase = .wrPend → ∀ st, stateOf s.reqSt = some st →
    s.calls.head? = some (.write s.cfg (newByte s.rdByte s.reqAll s.reqIdx st))
  /-- Every write has a read just before it (20_memory.md R43). -/
  read_first : readBeforeEachWrite s.calls = true
  /-- Every call presented the strapped configuration (20_memory.md R34, 10_state.md R20). -/
  config_presented : ∀ c ∈ s.calls, c.config = s.cfg
  /-- Every byte written is legal (42_set.md R97). -/
  writes_legal : ∀ cfg v, Call.write cfg v ∈ s.calls → legal v = true
  /-- A call abandoned by a reset is one that was issued (70_reset_and_hazards.md R131). -/
  abandoned_issued : ∀ c ∈ s.abandoned, c ∈ s.calls
  /-- Every payload answered has its width (30_encoding.md R58, 00_scope.md R5). -/
  payloads_fit : ∀ r ∈ s.responses, r.fits s.widths = true

/-- The ideal device and no other agent: no turn is listed, and the transport answers as in 20_memory.md R35. -/
def Undisturbed (s : State) : Prop := s.world = [] ∧ s.transport = .ideal

/-- A turn that neither moves the block nor answers it: another agent stores a byte, a word is presented, a
result of an abandoned call arrives, nothing. -/
def Turn.outside : Turn → Bool
  | .present _ => true
  | .otherWrite _ => true
  | .wait => true
  | .accept => false
  | .readReturn _ => false
  | .readIdeal => false
  | .lateRead _ => true
  | .writeReturn _ => false
  | .writeIdeal => false
  | .lateWrite _ => true
  | .blockReset => false

/-- Whether an instruction is a SET. -/
def isSet : Instr → Bool
  | .getCh _ _ => false
  | .getAll _ _ => false
  | .setChOff _ => true
  | .setChOn _ => true
  | .setAllOff _ => true
  | .setAllOn _ => true

/-- `GET c` (30_encoding.md R62). -/
def getChannel (c : Fin 4) : Instr := .getCh (BitVec.ofNat 8 c.val) 0b00#2

/-- `SET c,st` (30_encoding.md R62). -/
def setChannel (c : Fin 4) : RelayState → Instr
  | .on => .setChOn (BitVec.ofNat 8 c.val)
  | .off => .setChOff (BitVec.ofNat 8 c.val)

/-- `SET all,st` (30_encoding.md R62). -/
def setEvery : RelayState → Instr
  | .on => .setAllOn 0x00#8
  | .off => .setAllOff 0x00#8

/-- The end of `setState`: the write of `nb` has been issued; its result makes the response (42_set.md R90 step 4). -/
def procedureWrite (cfg : Cfg) (nb : Byte) (write : WriteResult) : Response × List Call :=
  match write with
  | .ack a => (.okSet nb a, [.write cfg nb, .read cfg])
  | .err e => (.failed (.transportError e), [.write cfg nb, .read cfg])

/-- `getState` and `setState` on a request, as a function of the request word and of what the transport would answer: the
response, and the transport calls made, newest first (41_get.md R80, R84, R85; 42_set.md R90, R93 to R96; 20_memory.md
R43). It is written from the procedures, without the events. -/
def procedure (cfg : Cfg) (w : ReqWord) (read : ReadResult) (write : WriteResult) : Response × List Call :=
  match decode w with
  | .illegal .invalidChannel => (.failed .invalidChannel, [])
  | .illegal .invalidState => (.failed .invalidState, [])
  | .ok i =>
    match read with
    | .err e => (.failed (.transportError e), [.read cfg])
    | .val b =>
      if legal b then
        match i with
        | .getCh idx _ => (.okGetOne (if b.getLsbD (3 - idx.toNat) then .off else .on), [.read cfg])
        | .getAll _ _ => (.okGetAll (decodeStates b), [.read cfg])
        | .setChOff idx => procedureWrite cfg (b ||| 0x01#8 <<< idx.toNat) write
        | .setChOn idx => procedureWrite cfg (b &&& ~~~(0x01#8 <<< idx.toNat)) write
        | .setAllOff _ => procedureWrite cfg (b ||| 0x0F#8) write
        | .setAllOn _ => procedureWrite cfg (b &&& 0xF0#8) write
      else (.failed .invalidRegisterByte, [.read cfg])

/-- ACCEPT of a form: the latches hold its request, one read is issued with the configuration, and nothing else changes
(10_state.md R25). -/
def IssuesOneRead (i : Instr) : Prop :=
  ∀ s : State, s.phase = .idle →
    exec i s = .next { s with
      reqOp := i.request.op, reqAll := i.request.all, reqIdx := i.request.idx, reqSt := i.request.st,
      calls := .read s.cfg :: s.calls, phase := .rdPend }

/-- A failed read ends a form with the transport's payload, unchanged, and nothing else happens (60_exceptions.md R114). -/
def PassesReadFailureOn (i : Instr) : Prop :=
  ∀ (s : State) (e : ErrPayload), s.phase = .rdPend → s.rdPort = some (.err e) →
    exec i s = .next { s with
      rdPort := none, phase := .idle, responses := .failed (.transportError e) :: s.responses }

/-- An illegal byte ends a form with InvalidRegisterByte, and no write is issued (40_validate.md R73). -/
def RejectsIllegalByte (i : Instr) : Prop :=
  ∀ (s : State) (b : Byte), s.phase = .rdPend → s.rdPort = some (.val b) → b.extractLsb' 4 4 ≠ 0xF#4 →
    exec i s = .next { s with
      rdPort := none, rdByte := b, phase := .idle, responses := .failed .invalidRegisterByte :: s.responses }

/-- A legal byte read makes a form issue the one write of `encodeByte` of it, and nothing else happens (42_set.md
section 4). -/
def WritesAfterLegalByte (i : Instr) (encodeByte : Byte → Byte) : Prop :=
  ∀ (s : State) (b : Byte), s.phase = .rdPend → s.rdPort = some (.val b) → b.extractLsb' 4 4 = 0xF#4 →
    exec i s = .next { s with
      rdPort := none, rdByte := b, phase := .wrPend, calls := .write s.cfg (encodeByte b) :: s.calls }

/-- An acknowledged write ends a form with OK, the byte sent and the acknowledgment, the device holding the byte sent, and
nothing else happens (42_set.md section 4, 10_state.md R26). -/
def CompletesOnAcknowledgment (i : Instr) (encodeByte : Byte → Byte) : Prop :=
  ∀ (s : State) (a : AckPayload), s.phase = .wrPend → s.wrPort = some { result := .ack a, held := none } →
    exec i s = .next { s with
      wrPort := none, reg := encodeByte s.rdByte, phase := .idle,
      responses := .okSet (encodeByte s.rdByte) a :: s.responses }

/-- A failed write ends a form with the transport's payload, unchanged; REG may then hold any byte, and nothing else happens
but that a free value may have been drawn (42_set.md section 4, 20_memory.md R36). -/
def PassesWriteFailureOn (i : Instr) : Prop :=
  ∀ (s : State) (e : ErrPayload) (held : Option Byte),
    s.phase = .wrPend → s.wrPort = some { result := .err e, held := held } →
    ∃ (v : Byte) (n : Nat), exec i s = .next { s with
      wrPort := none, reg := v, draws := n, phase := .idle,
      responses := .failed (.transportError e) :: s.responses }

/-- Two states that differ at most in what the spec says no requester and no transport can see: the latches that no event
reads before writing them. In IDLE that is all of them; in RD_PEND it is `RD_BYTE` (10_state.md R11, U6). -/
structure SameButUnread (s t : State) : Prop where
  phase : t.phase = s.phase
  latches : s.phase ≠ .idle →
    t.reqOp = s.reqOp ∧ t.reqAll = s.reqAll ∧ t.reqIdx = s.reqIdx ∧ t.reqSt = s.reqSt
  rdByte : s.phase = .wrPend → t.rdByte = s.rdByte
  device : t.reg = s.reg ∧ t.cfg = s.cfg ∧ t.widths = s.widths
  ports : t.rdPort = s.rdPort ∧ t.wrPort = s.wrPort
  interface : t.requests = s.requests ∧ t.responses = s.responses ∧ t.calls = s.calls ∧ t.abandoned = s.abandoned
  environment : t.world = s.world ∧ t.transport = s.transport ∧ t.draws = s.draws

end Sys2Proof.Machine
end

