-- ==== Sys2Proof/Certificates/Slice0/Obligations.lean ====
section
/-! DEFINITION. The statements for the provers, each from the numbered rules of spec/ or derived from its sections. -/

open Sys2Proof Sys2Proof.Machine Host

/-! ## Encoding -/

/-- Decoding what the encoder writes gives the instruction back, with every operand at every value its encoding admits,
the ignored fields too (30_encoding.md R50, R55, R56). -/
def Obligations.DecodeOfEncode : Prop :=
  ∀ i : Instr, i.wellFormed = true → decode (encode i) = .ok i

/-- A word that decodes is the encoding of a well-formed instruction: no bit of it is dropped (30_encoding.md R50, R55). -/
def Obligations.EncodeOfDecode : Prop :=
  ∀ (w : ReqWord) (i : Instr), decode w = .ok i → i.wellFormed = true ∧ encode i = w

/-- The decoder and the opcode map of 30_encoding.md section 3 agree (the spec marks R55's counts as its own inference): a word decodes to a form exactly when it matches the form's row, a word that
matches no row is illegal, the rows are disjoint, and they take the counted numbers of words. -/
def Obligations.DecoderFollowsOpcodeMap : Prop :=
  (∀ (w : ReqWord) (i : Instr), decode w = .ok i → i.row ∈ opcodeTable ∧ i.row.matches w = true) ∧
  (∀ (w : ReqWord) (row : OpcodeRow), row ∈ opcodeTable → row.matches w = true →
    ∃ i, decode w = .ok i ∧ i.row = row) ∧
  (∀ w : ReqWord, (∀ row ∈ opcodeTable, row.matches w = false) ↔ ∃ e, decode w = .illegal e) ∧
  (∀ (w : ReqWord) (a b : OpcodeRow), a ∈ opcodeTable → b ∈ opcodeTable → a.matches w = true → b.matches w = true →
    a = b) ∧
  (opcodeTable.map fun row => (List.range 4096).countP fun n => row.matches (BitVec.ofNat 12 n)) =
    [16, 1024, 4, 4, 256, 256]

/-- R57. The illegal words and the error each gives: the two conditions, how many words each holds of, and that the error is
raised at ACCEPT, before any transport call: the response is given, the block stays in IDLE, nothing else changes. -/
def Obligations.IllegalWordsAreAnsweredAtAccept : Prop :=
  (∀ w : ReqWord, decode w = .illegal .invalidChannel ↔
    (Request.ofWord w).all = 0#1 ∧ 4 ≤ (Request.ofWord w).idx.toNat) ∧
  (∀ w : ReqWord, decode w = .illegal .invalidState ↔
    ¬ ((Request.ofWord w).all = 0#1 ∧ 4 ≤ (Request.ofWord w).idx.toNat) ∧
      (Request.ofWord w).op = 1#1 ∧ (Request.ofWord w).st.getLsbD 1 = true) ∧
  (List.range 4096).countP (fun n => decode (BitVec.ofNat 12 n) = .illegal .invalidChannel) = 2016 ∧
  (List.range 4096).countP (fun n => decode (BitVec.ofNat 12 n) = .illegal .invalidState) = 520 ∧
  (List.range 4096).countP (fun n => ((decode (BitVec.ofNat 12 n)).toOption).isSome) = 1560 ∧
  (∀ (s : State) (w : ReqWord) (rest : List ReqWord) (turns : List Turn),
    s.phase = .idle → s.requests = w :: rest → s.world = .accept :: turns →
    (decode w = .illegal .invalidChannel →
      step s = .next { s with
        requests := rest, world := turns, responses := .failed .invalidChannel :: s.responses }) ∧
    (decode w = .illegal .invalidState →
      step s = .next { s with
        requests := rest, world := turns, responses := .failed .invalidState :: s.responses }))

/-- Words written out from the patterns of 30_encoding.md R55 decode to the forms they stand for. -/
def Obligations.WrittenWordsDecode : Prop :=
  decode 0b000000000010#12 = .ok (.getCh 0x02#8 0b00#2) ∧
  decode 0b011000000001#12 = .ok (.getCh 0x01#8 0b11#2) ∧
  decode 0b000100000000#12 = .ok (.getAll 0x00#8 0b00#2) ∧
  decode 0b100000000011#12 = .ok (.setChOff 0x03#8) ∧
  decode 0b101000000000#12 = .ok (.setChOn 0x00#8) ∧
  decode 0b100100000000#12 = .ok (.setAllOff 0x00#8) ∧
  decode 0b101101011010#12 = .ok (.setAllOn 0x5A#8)

/-- R64, with R52 and R53: the code of every software channel and state value. -/
def Obligations.RequesterCodes : Prop :=
  (∀ n : Int, 0 ≤ n → n ≤ 255 → (softChannelCode (.integer n)).1 = 0#1 ∧
    ((softChannelCode (.integer n)).2.toNat : Int) = n) ∧
  softChannelCode (.text "all") = (1#1, 0x00#8) ∧
  softChannelCode .absent = (1#1, 0x00#8) ∧
  (∀ n : Int, n < 0 ∨ 255 < n → softChannelCode (.integer n) = (0#1, 0xFF#8)) ∧
  (∀ t : String, t ≠ "all" → softChannelCode (.text t) = (0#1, 0xFF#8)) ∧
  softStateCode (.text "off") = 0b00#2 ∧
  softStateCode (.text "on") = 0b01#2 ∧
  (∀ t : String, t ≠ "off" → t ≠ "on" → softStateCode (.text t) = 0b11#2) ∧
  softStateCode .other = 0b11#2

/-- The assembler lines of 30_encoding.md R62 and R63 are the words of the forms they name; `GET` alone is `GET all`. -/
def Obligations.AssemblerWords : Prop :=
  assemble (.get none) = assemble (.get (some .all)) ∧
  decode (assemble (.get none)) = .ok (.getAll 0x00#8 0b00#2) ∧
  (∀ c : Fin 4, decode (assemble (.get (some (.ordinal c)))) = .ok (.getCh (BitVec.ofNat 8 c.val) 0b00#2)) ∧
  (∀ c : Fin 4, decode (assemble (.set (.ordinal c) .off)) = .ok (.setChOff (BitVec.ofNat 8 c.val))) ∧
  (∀ c : Fin 4, decode (assemble (.set (.ordinal c) .on)) = .ok (.setChOn (BitVec.ofNat 8 c.val))) ∧
  decode (assemble (.set .all .off)) = .ok (.setAllOff 0x00#8) ∧
  decode (assemble (.set .all .on)) = .ok (.setAllOn 0x00#8)

/-! ## The register byte -/

/-- 40_validate.md section 4 (the spec marks R74 as its own inference): the 16 listed values are exactly the bytes 0xF0 to 0xFF, and membership is the test of the high nibble. -/
def Obligations.LegalBytes : Prop :=
  ∀ b : Byte,
    (legal b = true ↔ b ∈ [0xFF#8, 0xFE#8, 0xFD#8, 0xFB#8, 0xF7#8, 0xFC#8, 0xF9#8, 0xF3#8,
      0xFA#8, 0xF5#8, 0xF6#8, 0xF8#8, 0xF1#8, 0xF2#8, 0xF4#8, 0xF0#8]) ∧
    (legal b = true ↔ 0xF0 ≤ b.toNat) ∧
    (legal b = true ↔ b.extractLsb' 4 4 = 0xF#4)

/-- The decoder (41_get.md section 2): channel `i` is OFF exactly when bit `3 - i` of the byte is 1, the low nibble alone
counts (R81), and `rdata` of the vector is the complemented low nibble reversed (R82's closed form, which the spec marks as
its own inference, and R85's). That GET's numbering is `3 - i` is the spec's decision D8 (notes/assumptions/12.md). -/
def Obligations.DecoderMapping : Prop :=
  (∀ (b : Byte) (i : Fin 4),
    (decodeStates b).get i = (if (rev4 (b.extractLsb' 0 4)).getLsbD i.val then .off else .on) ∧
    ((decodeStates b).get i = .off ↔ b.getLsbD (3 - i.val) = true)) ∧
  (∀ a b : Byte, a.extractLsb' 0 4 = b.extractLsb' 0 4 → decodeStates a = decodeStates b) ∧
  (∀ b : Byte, rdataOf (decodeStates b) = rev4 (~~~ b.extractLsb' 0 4))

/-- R92. The encoder bit by bit: a bit of the mask becomes 0 for ON and 1 for OFF, every other bit is the one read, and so
the high nibble never changes. -/
def Obligations.EncoderBits : Prop :=
  ∀ (b : Byte) (all : BitVec 1) (idx : Byte), validChannel all idx = true →
    newByte b all idx .on = b &&& (0xFF#8 - mask all idx) ∧
    newByte b all idx .off = b ||| mask all idx ∧
    (∀ k : Fin 8,
      (newByte b all idx .on).getLsbD k.val = (if (mask all idx).getLsbD k.val then false else b.getLsbD k.val) ∧
      (newByte b all idx .off).getLsbD k.val = (if (mask all idx).getLsbD k.val then true else b.getLsbD k.val)) ∧
    (∀ st : RelayState, (newByte b all idx st).extractLsb' 4 4 = b.extractLsb' 4 4)

/-- R91. The target mask: the four low bits for ALL, the single bit `1 << idx` for a channel, never a high bit. -/
def Obligations.TargetMask : Prop :=
  (∀ idx : Byte, mask 1#1 idx = 0x0F#8) ∧
  mask 0#1 0x00#8 = 0x01#8 ∧ mask 0#1 0x01#8 = 0x02#8 ∧ mask 0#1 0x02#8 = 0x04#8 ∧ mask 0#1 0x03#8 = 0x08#8 ∧
  (∀ (all : BitVec 1) (idx : Byte), validChannel all idx = true → (mask all idx).extractLsb' 4 4 = 0#4)

/-- The laws of the pure function, 42_set.md section 5 (the spec marks R99 as its own inference): SET is idempotent on the byte, and SETs on different single channels commute. -/
def Obligations.EncoderLaws : Prop :=
  (∀ (b : Byte) (all : BitVec 1) (idx : Byte) (st : RelayState), validChannel all idx = true →
    newByte (newByte b all idx st) all idx st = newByte b all idx st) ∧
  (∀ (b c d : Byte) (st su : RelayState), validChannel 0#1 c = true → validChannel 0#1 d = true → c ≠ d →
    newByte (newByte b 0#1 c st) 0#1 d su = newByte (newByte b 0#1 d su) 0#1 c st)

/-- R59, with the fields of R58, the response as driven: the five status codes, `1` = ON in `rdata`, each payload field in its own outcome
and 0 in every other; codes 5 to 7 are never produced. -/
def Obligations.ResponseFieldsDriven : Prop :=
  (∀ v, fieldsOf (.okGetOne v) =
    { status := 0, rdata := (if v = .on then 1#4 else 0#4), wbyte := 0, ack := 0, terr := 0 }) ∧
  (∀ v : ChannelStateVector, (fieldsOf (.okGetAll v)).status = 0 ∧ (fieldsOf (.okGetAll v)).wbyte = 0 ∧
    (fieldsOf (.okGetAll v)).ack = 0 ∧ (fieldsOf (.okGetAll v)).terr = 0 ∧
    ∀ i : Fin 4, (fieldsOf (.okGetAll v)).rdata.getLsbD i.val = decide (v.get i = .on)) ∧
  (∀ b a, fieldsOf (.okSet b a) = { status := 0, rdata := 0, wbyte := b, ack := a, terr := 0 }) ∧
  fieldsOf (.failed .invalidChannel) = { status := 1, rdata := 0, wbyte := 0, ack := 0, terr := 0 } ∧
  fieldsOf (.failed .invalidState) = { status := 2, rdata := 0, wbyte := 0, ack := 0, terr := 0 } ∧
  fieldsOf (.failed .invalidRegisterByte) = { status := 3, rdata := 0, wbyte := 0, ack := 0, terr := 0 } ∧
  (∀ e, fieldsOf (.failed (.transportError e)) = { status := 4, rdata := 0, wbyte := 0, ack := 0, terr := e }) ∧
  (∀ r, (fieldsOf r).status.toNat ≤ 4)

/-! ## The events of each instruction -/

/-- R84. `GET ch`: its words match its pattern; ACCEPT issues one read; a failed read and an illegal byte end it with their
errors; on a legal byte it answers the state of its channel, register bit `3 - ch` (0 is ON). REG is not written and no
other call is made: the response, `RD_BYTE`, the consumed port and the phase are all that changes. -/
def Obligations.GetChFollowsItsRule : Prop :=
  ∀ (idx : Byte) (st : BitVec 2), (Instr.getCh idx st).wellFormed = true →
    encode (.getCh idx st) &&& 0x9FC#12 = 0x000#12 ∧
    IssuesOneRead (.getCh idx st) ∧ PassesReadFailureOn (.getCh idx st) ∧ RejectsIllegalByte (.getCh idx st) ∧
    ∀ (s : State) (b : Byte), s.phase = .rdPend → s.rdPort = some (.val b) → b.extractLsb' 4 4 = 0xF#4 →
      exec (.getCh idx st) s = .next { s with
        rdPort := none, rdByte := b, phase := .idle,
        responses := .okGetOne (if b.getLsbD (3 - idx.toNat) then .off else .on) :: s.responses }

/-- R85. `GET all`: its words match its pattern; ACCEPT issues one read; a failed read and an illegal byte end it with their
errors; on a legal byte it answers all four states from that one byte, channel `i` from register bit `3 - i`, so that
`rdata` is the complemented low nibble reversed. REG is not written and no other call is made. -/
def Obligations.GetAllFollowsItsRule : Prop :=
  ∀ (idx : Byte) (st : BitVec 2),
    encode (.getAll idx st) &&& 0x900#12 = 0x100#12 ∧
    IssuesOneRead (.getAll idx st) ∧ PassesReadFailureOn (.getAll idx st) ∧ RejectsIllegalByte (.getAll idx st) ∧
    ∀ (s : State) (b : Byte), s.phase = .rdPend → s.rdPort = some (.val b) → b.extractLsb' 4 4 = 0xF#4 →
      ∃ v : ChannelStateVector,
        (∀ i : Fin 4, v.get i = if b.getLsbD (3 - i.val) then .off else .on) ∧
        rdataOf v = rev4 (~~~ b.extractLsb' 0 4) ∧
        exec (.getAll idx st) s = .next { s with
          rdPort := none, rdByte := b, phase := .idle, responses := .okGetAll v :: s.responses }

/-- R94. `SET ch,off`: its words match its pattern; ACCEPT issues one read; on a legal byte it issues the one write of the
byte with bit `ch` set and the other seven bits as read, even where that changes nothing, and that byte is legal; the
acknowledgment ends it with the byte sent. Each failure ends it with its error. -/
def Obligations.SetChOffFollowsItsRule : Prop :=
  ∀ idx : Byte, (Instr.setChOff idx).wellFormed = true →
    encode (.setChOff idx) &&& 0xFFC#12 = 0x800#12 ∧
    IssuesOneRead (.setChOff idx) ∧ PassesReadFailureOn (.setChOff idx) ∧ RejectsIllegalByte (.setChOff idx) ∧
    WritesAfterLegalByte (.setChOff idx) (fun b => b ||| 0x01#8 <<< idx.toNat) ∧
    CompletesOnAcknowledgment (.setChOff idx) (fun b => b ||| 0x01#8 <<< idx.toNat) ∧
    PassesWriteFailureOn (.setChOff idx) ∧
    ∀ b : Byte, b.extractLsb' 4 4 = 0xF#4 → (b ||| 0x01#8 <<< idx.toNat).extractLsb' 4 4 = 0xF#4 ∧
      (b.getLsbD idx.toNat = true → b ||| 0x01#8 <<< idx.toNat = b)

/-- R93. `SET ch,on`: its words match its pattern; ACCEPT issues one read; on a legal byte it issues the one write of the
byte with bit `ch` cleared and the other seven bits as read, even where that changes nothing, and that byte is legal; the
acknowledgment ends it with the byte sent. Each failure ends it with its error. -/
def Obligations.SetChOnFollowsItsRule : Prop :=
  ∀ idx : Byte, (Instr.setChOn idx).wellFormed = true →
    encode (.setChOn idx) &&& 0xFFC#12 = 0xA00#12 ∧
    IssuesOneRead (.setChOn idx) ∧ PassesReadFailureOn (.setChOn idx) ∧ RejectsIllegalByte (.setChOn idx) ∧
    WritesAfterLegalByte (.setChOn idx) (fun b => b &&& (0xFF#8 - 0x01#8 <<< idx.toNat)) ∧
    CompletesOnAcknowledgment (.setChOn idx) (fun b => b &&& (0xFF#8 - 0x01#8 <<< idx.toNat)) ∧
    PassesWriteFailureOn (.setChOn idx) ∧
    ∀ b : Byte, b.extractLsb' 4 4 = 0xF#4 → (b &&& (0xFF#8 - 0x01#8 <<< idx.toNat)).extractLsb' 4 4 = 0xF#4 ∧
      (b.getLsbD idx.toNat = false → b &&& (0xFF#8 - 0x01#8 <<< idx.toNat) = b)

/-- R96. `SET all,off`: as `SET ch,off` with all four low bits set and the others as read, whatever `idx` is; from a legal
byte it always writes 0xFF. -/
def Obligations.SetAllOffFollowsItsRule : Prop :=
  ∀ idx : Byte,
    encode (.setAllOff idx) &&& 0xF00#12 = 0x900#12 ∧
    IssuesOneRead (.setAllOff idx) ∧ PassesReadFailureOn (.setAllOff idx) ∧ RejectsIllegalByte (.setAllOff idx) ∧
    WritesAfterLegalByte (.setAllOff idx) (fun b => b ||| 0x0F#8) ∧
    CompletesOnAcknowledgment (.setAllOff idx) (fun b => b ||| 0x0F#8) ∧
    PassesWriteFailureOn (.setAllOff idx) ∧
    ∀ b : Byte, b.extractLsb' 4 4 = 0xF#4 → b ||| 0x0F#8 = 0xFF#8

/-- R95. `SET all,on`: as `SET ch,on` with all four low bits cleared and the others as read, whatever `idx` is; from a legal
byte it always writes 0xF0. -/
def Obligations.SetAllOnFollowsItsRule : Prop :=
  ∀ idx : Byte,
    encode (.setAllOn idx) &&& 0xF00#12 = 0xB00#12 ∧
    IssuesOneRead (.setAllOn idx) ∧ PassesReadFailureOn (.setAllOn idx) ∧ RejectsIllegalByte (.setAllOn idx) ∧
    WritesAfterLegalByte (.setAllOn idx) (fun b => b &&& 0xF0#8) ∧
    CompletesOnAcknowledgment (.setAllOn idx) (fun b => b &&& 0xF0#8) ∧
    PassesWriteFailureOn (.setAllOn idx) ∧
    ∀ b : Byte, b.extractLsb' 4 4 = 0xF#4 → b &&& 0xF0#8 = 0xF0#8

/-! ## The errors -/

/-- R113. In a whole operation from IDLE, GET or SET, a read that returns a byte with another high nibble than 0xF ends it
with InvalidRegisterByte, before any decode and any write: one read has been issued and nothing else; REG is as it was. -/
def Obligations.IllegalByteEndsTheOperation : Prop :=
  ∀ (s : State) (w : ReqWord) (i : Instr) (rest : List ReqWord) (b : Byte) (turns : List Turn),
    s.phase = .idle → s.rdPort = none → s.requests = w :: rest → decode w = .ok i →
    s.world = .accept :: .readReturn (.byte b) :: turns → b.extractLsb' 4 4 ≠ 0xF#4 →
    runFor 2 s = .next { s with
      requests := rest, world := turns, rdByte := b, calls := .read s.cfg :: s.calls,
      reqOp := i.request.op, reqAll := i.request.all, reqIdx := i.request.idx, reqSt := i.request.st,
      responses := .failed .invalidRegisterByte :: s.responses }

/-- R114. In a whole operation from IDLE, a transport failure ends it with TransportError and the payload, a value of
`ERR_W` bits, unchanged, whichever call failed: a failed read of a GET or a SET, with REG as it was and no write issued, and a failed write of a SET. Nothing
is retried. -/
def Obligations.TransportErrorIsPassedOn : Prop :=
  (∀ (s : State) (w : ReqWord) (i : Instr) (rest : List ReqWord) (e : ErrPayload) (turns : List Turn),
    s.phase = .idle → s.rdPort = none → s.requests = w :: rest → decode w = .ok i → e < 2 ^ s.widths.errW →
    s.world = .accept :: .readReturn (.failure e) :: turns →
    runFor 2 s = .next { s with
      requests := rest, world := turns, calls := .read s.cfg :: s.calls,
      reqOp := i.request.op, reqAll := i.request.all, reqIdx := i.request.idx, reqSt := i.request.st,
      responses := .failed (.transportError e) :: s.responses }) ∧
  (∀ (s : State) (w : ReqWord) (i : Instr) (rest : List ReqWord) (b : Byte) (e : ErrPayload) (held : Option Byte)
      (turns : List Turn),
    s.phase = .idle → s.rdPort = none → s.wrPort = none → s.requests = w :: rest → decode w = .ok i → isSet i = true →
    legal b = true → e < 2 ^ s.widths.errW →
    s.world = .accept :: .readReturn (.byte b) :: .writeReturn { result := .err e, held := held } :: turns →
    ∃ t, runFor 3 s = .next t ∧ t.phase = .idle ∧ t.requests = rest ∧ t.world = turns ∧
      t.responses = .failed (.transportError e) :: s.responses ∧
      ∃ nb, t.calls = .write s.cfg nb :: .read s.cfg :: s.calls)

/-- 20_memory.md section 2 (R36). A failed read leaves REG as it was. After a failed write REG may hold any byte: for every byte there is a turn of the
transport that fails the write and leaves REG holding that byte. The block does not read back: it is in IDLE and has issued
no further call. That a free value stands for the byte no turn names is the model's choice (notes/assumptions/10.md). -/
def Obligations.FailedWriteLosesTheRegister : Prop :=
  (∀ (s t : State) (e : ErrPayload) (turns : List Turn), s.world = .readReturn (.failure e) :: turns →
    step s = .next t → t.reg = s.reg) ∧
  (∀ (s : State) (e : ErrPayload) (v : Byte), Sound s → s.phase = .wrPend → e < 2 ^ s.widths.errW →
    s.world = [.writeReturn { result := .err e, held := some v }] →
    step s = .next { s with
      world := [], reg := v, phase := .idle, responses := .failed (.transportError e) :: s.responses }) ∧
  (∀ (s : State) (e : ErrPayload), Sound s → s.phase = .wrPend → e < 2 ^ s.widths.errW →
    s.world = [.writeReturn { result := .err e, held := none }] →
    ∃ (v : Byte) (n : Nat), step s = .next { s with
      world := [], reg := v, draws := n, phase := .idle, responses := .failed (.transportError e) :: s.responses })

/-- R139. A transport that never answers hangs the block: in RD_PEND and WR_PEND, with no turn listed and a silent
transport, any number of steps leaves the whole machine as it is. -/
def Obligations.SilentTransportHangsTheBlock : Prop :=
  ∀ (s : State) (n : Nat), s.phase ≠ .idle → s.world = [] → s.transport = .silent → runFor n s = .next s

/-- No instruction of an operation in progress moves without a transport result (60_exceptions.md R118). -/
def Obligations.NoResultNoMove : Prop :=
  ∀ (i : Instr) (s : State),
    (s.phase = .rdPend → s.rdPort = none → exec i s = .next s) ∧
    (s.phase = .wrPend → s.wrPort = none → isSet i = true → exec i s = .next s)

/-- A GET in WR_PEND stops by name: only a SET issues a write, so no run gets there (10_state.md R25; the stop is the
model's own, notes/assumptions/21.md). -/
def Obligations.GetNeverWaitsForAWrite : Prop :=
  ∀ (i : Instr) (s : State), isSet i = false → s.phase = .wrPend → exec i s = .fault .writePendingForGet

/-! ## The step -/

/-- A step runs the decoded instruction. In IDLE it is the waiting request word, which the step takes from the line; in
RD_PEND and WR_PEND it is the one the latches hold, with the transport's result put at its port, its payload of the port's
width; the listed turn is used up. A word placed by `withFetchWord`, with the phase set to IDLE, is run by the very next
step. Finding the instruction by decoding the latches again is an inference (notes/assumptions/2.md), the list of turns is
the model's choice (notes/assumptions/3.md), and so is what `withFetchWord` does: it stands for the requester
(notes/assumptions/5.md). -/
def Obligations.StepRunsTheDecodedInstruction : Prop :=
  (∀ (s : State) (w : ReqWord) (rest : List ReqWord) (turns : List Turn) (i : Instr),
    s.phase = .idle → s.requests = w :: rest → s.world = .accept :: turns → decode w = .ok i →
    step s = exec i { s with requests := rest, world := turns }) ∧
  (∀ (s : State) (raw : RawRead) (turns : List Turn) (i : Instr),
    s.phase = .rdPend → s.world = .readReturn raw :: turns → decode (latchedWord s) = .ok i →
    step s = exec i { s with rdPort := some (adapt s.widths raw), world := turns }) ∧
  (∀ (s : State) (ret : WriteReturn) (turns : List Turn) (i : Instr),
    s.phase = .wrPend → s.world = .writeReturn ret :: turns → decode (latchedWord s) = .ok i →
    step s = exec i { s with
      wrPort := some { ret with result := adaptWrite s.widths ret.result }, world := turns }) ∧
  (∀ (s : State) (i : Instr), i.wellFormed = true →
    step (s.withFetchWord 16 (encode i).toNat) = exec i { s with phase := .idle })

/-- R35. The ideal device's two answers: a read is answered with REG and leaves REG alone; a write stores all 8 bits as
given and is answered `Ack(1)`, for every `ACK_W` that has a bit for it. -/
def Obligations.IdealDeviceAnswers : Prop :=
  ∀ (s : State) (i : Instr) (turns : List Turn), decode (latchedWord s) = .ok i →
    (s.phase = .rdPend → s.world = .readIdeal :: turns →
      step s = exec i { s with rdPort := some (.val s.reg), world := turns } ∧
      ∀ t, step s = .next t → t.reg = s.reg) ∧
    (s.phase = .wrPend → s.world = .writeIdeal :: turns → ∀ st, stateOf s.reqSt = some st → s.reqOp = 1#1 →
      0 < s.widths.ackW →
      ∃ t, step s = .next t ∧ t.reg = newByte s.rdByte s.reqAll s.reqIdx st ∧
        t.responses = .okSet (newByte s.rdByte s.reqAll s.reqIdx st) 1 :: s.responses)

/-- 20_memory.md section 2 (R32's rule for the adapter): a read result that is no byte ends the operation like the byte 0x00, with
InvalidRegisterByte, and not with TransportError. -/
def Obligations.NonByteIsAnInvalidRegisterByte : Prop :=
  ∀ (s : State) (i : Instr) (turns : List Turn),
    s.phase = .rdPend → s.world = .readReturn .notAByte :: turns → s.rdPort = none → decode (latchedWord s) = .ok i →
    step s = .next { s with
      world := turns, rdByte := 0x00#8, phase := .idle, responses := .failed .invalidRegisterByte :: s.responses }

/-- 10_state.md section 5 (R17). A request presented while an operation is in progress waits: it joins the line, and the
block's turn to accept leaves it there, unanswered. That it joins the line at its end is the model's choice
(notes/assumptions/16.md). -/
def Obligations.RequestWaitsDuringAnOperation : Prop :=
  (∀ (s : State) (w : ReqWord) (turns : List Turn), s.world = .present w :: turns →
    step s = .next { s with world := turns, requests := s.requests ++ [w] }) ∧
  (∀ (s : State) (turns : List Turn), s.phase ≠ .idle → s.world = .accept :: turns →
    step s = .next { s with world := turns })

/-- R40. Another agent may store any byte in REG at any instant, in every phase, and the block does not see it. -/
def Obligations.AnotherAgentWritesAtAnyInstant : Prop :=
  ∀ (s : State) (v : Byte) (turns : List Turn), s.world = .otherWrite v :: turns →
    step s = .next { s with world := turns, reg := v }

/-- 70_reset_and_hazards.md section 1 (R130, R131). A reset of the block in any phase gives IDLE with no response and no transport call; REG is kept, except
that a write issued and not yet back leaves it unknown; the call outstanding is abandoned, and a result of an abandoned
call that arrives afterwards is discarded in every phase, also while a later operation awaits a result of its own. The
latches may hold anything. That waiting requests are kept is the model's choice (notes/assumptions/16.md), that results are
matched with their calls an inference (notes/assumptions/17.md). -/
def Obligations.BlockResetAbandonsTheOperation : Prop :=
  (∀ (s : State) (turns : List Turn), s.world = .blockReset :: turns →
    ∃ t, step s = .next t ∧ t.phase = .idle ∧ t.rdPort = none ∧ t.wrPort = none ∧ t.responses = s.responses ∧
      t.calls = s.calls ∧ t.abandoned = s.abandoned ++ outstanding s ∧ t.cfg = s.cfg ∧ t.requests = s.requests ∧ t.world = turns ∧
      (s.phase ≠ .wrPend → t.reg = s.reg)) ∧
  (∀ (s : State) (raw : RawRead) (turns : List Turn),
    s.world = .lateRead raw :: turns ∨ s.phase ≠ .rdPend ∧ s.world = .readReturn raw :: turns →
    step s = .next { s with world := turns, abandoned := s.abandoned.eraseP Call.isRead }) ∧
  (∀ (s : State) (ret : WriteReturn) (turns : List Turn),
    s.world = .lateWrite ret.result :: turns ∨ s.phase ≠ .wrPend ∧ s.world = .writeReturn ret :: turns →
    step s = .next { s with world := turns, abandoned := s.abandoned.eraseP Call.isWrite })

/-- 70_reset_and_hazards.md section 1 (R131), as whole runs. An operation is reset while it awaits its read (its write), the
next request is accepted, and the abandoned call's result, whatever it is, arrives while the new operation awaits its own
read (its own write). The new operation goes on as if it had not: no response, the same phase, its request latched, no
further call; and its own call's answer then moves it as always. That results are matched with their calls is an inference
(notes/assumptions/17.md). -/
def Obligations.LateResultLeavesTheNewOperation : Prop :=
  (∀ (s : State) (w : ReqWord) (i : Instr) (rest : List ReqWord) (raw own : RawRead) (turns : List Turn),
    Sound s → s.phase = .rdPend → s.abandoned = [] → s.requests = w :: rest → decode w = .ok i →
    s.world = .blockReset :: .accept :: .lateRead raw :: .readReturn own :: turns →
    ∃ t, runFor 3 s = .next t ∧ t.phase = .rdPend ∧ t.responses = s.responses ∧ t.reg = s.reg ∧ t.abandoned = [] ∧
      t.calls = .read s.cfg :: s.calls ∧ t.requests = rest ∧ decode (latchedWord t) = .ok i ∧
      step t = exec i { t with rdPort := some (adapt s.widths own), world := turns }) ∧
  (∀ (s : State) (w : ReqWord) (i : Instr) (st : RelayState) (rest : List ReqWord) (b : Byte) (late : WriteResult)
      (own : WriteReturn) (turns : List Turn),
    Sound s → s.phase = .wrPend → s.abandoned = [] → s.requests = w :: rest → decode w = .ok i → isSet i = true →
    stateOf i.request.st = some st → legal b = true →
    s.world = .blockReset :: .accept :: .readReturn (.byte b) :: .lateWrite late :: .writeReturn own :: turns →
    ∃ t, runFor 4 s = .next t ∧ t.phase = .wrPend ∧ t.responses = s.responses ∧ t.abandoned = [] ∧
      t.calls = .write s.cfg (newByte b i.request.all i.request.idx st) :: .read s.cfg :: s.calls ∧
      t.requests = rest ∧ decode (latchedWord t) = .ok i ∧
      step t = exec i { t with
        wrPort := some { own with result := adaptWrite s.widths own.result }, world := turns })

/-- What reset leaves (10_state.md section 10, R27), for every device register value, every strapping and every two payload
widths: IDLE, no response pending, no transport call
outstanding, the strapped configuration, the widths given, and REG as it was. The values of the latches are the model's choice and not
stated. -/
def Obligations.ResetState : Prop :=
  ∀ (r : Byte) (cfg : Cfg) (w : Widths), (State.resetWith r cfg w).phase = .idle ∧ (State.resetWith r cfg w).responses = [] ∧
    (State.resetWith r cfg w).calls = [] ∧ (State.resetWith r cfg w).rdPort = none ∧
    (State.resetWith r cfg w).wrPort = none ∧ (State.resetWith r cfg w).cfg = cfg ∧ (State.resetWith r cfg w).reg = r ∧
    (State.resetWith r cfg w).widths = w ∧ (State.resetWith r cfg w).abandoned = []

/-! ## Invariants -/

/-- The reset state is sound, whatever the device register holds, however the configuration is strapped, and for every two
payload widths. -/
def Obligations.ResetIsSound : Prop := (∀ (r : Byte) (cfg : Cfg) (w : Widths), Sound (State.resetWith r cfg w)) ∧ Sound State.reset

/-- Every step keeps a state sound: the latches of an operation in progress hold a legal request, only a SET waits for a
write, the write outstanding is the new byte made from `RD_BYTE`, each write follows a read, every call presents the
strapped configuration, every byte written is legal, every abandoned call was issued, and every payload answered has its
width (10_state.md R14, R15, 20_memory.md R34, R43, 42_set.md R97,
70_reset_and_hazards.md R131, 30_encoding.md R58). -/
def Obligations.StepKeepsSound : Prop := ∀ s t : State, Sound s → step s = .next t → Sound t

/-- From a sound state the machine never stops: every transport answer, every request word, every other agent's write and
every reset has a next state (20_memory.md R37: no answer makes the block stuck). -/
def Obligations.SoundStatesNeverStop : Prop :=
  ∀ (s : State) (n : Nat), Sound s → ∃ t, runFor n s = .next t ∧ Sound t

/-- The configuration is constant for the life of the block (10_state.md R20), and so are the payload widths (00_scope.md R5).
Each event gives at most one response and issues at most one call (10_state.md section 9), so the histories of the two,
which are the model's own (notes/assumptions/19.md), only grow, by at most one a step. -/
def Obligations.ConfigurationIsConstant : Prop :=
  ∀ s t : State, step s = .next t →
    t.cfg = s.cfg ∧ t.widths = s.widths ∧ s.responses <:+ t.responses ∧ s.calls <:+ t.calls ∧
    t.responses.length ≤ s.responses.length + 1 ∧ t.calls.length ≤ s.calls.length + 1

/-- Who can change REG: another agent's write, or a write of the block coming back or being abandoned by a reset in WR_PEND.
Reads, requests and errors do not (20_memory.md R36, R42, 60_exceptions.md R116). -/
def Obligations.OnlyWritesChangeTheRegister : Prop :=
  ∀ s t : State, step s = .next t → t.reg ≠ s.reg →
    (∃ v turns, s.world = .otherWrite v :: turns) ∨ s.phase = .wrPend

/-- 10_state.md sections 1, 2 and 10, for whole runs: what the latches hold between operations is never seen. Two states that differ
only in latches no event reads before writing them go the same way, step by step, with the same responses, the same
transport calls and the same device register. -/
def Obligations.NothingIsKeptBetweenOperations : Prop :=
  ∀ (s t : State) (n : Nat), SameButUnread s t →
    (∀ s', runFor n s = .next s' → ∃ t', runFor n t = .next t' ∧ SameButUnread s' t')

/-! ## Whole operations -/

/-- The events refine the procedures. From IDLE, with any request word accepted, any read result, any write result, and any
steps of other agents in between (bytes stored in REG, requests presented, late results of abandoned calls, nothing), the operation ends in IDLE with one
response, and the response and the transport calls are those of the source's `getState` and `setState` procedures: a
function of the request and of the transport's answers and of nothing else (10_state.md R10, R25; 20_memory.md R43;
41_get.md R80; 42_set.md R90). -/
def Obligations.EventsRefineTheProcedures : Prop :=
  ∀ (s : State) (w : ReqWord) (raw : RawRead) (ret : WriteReturn) (before between : List Turn),
    s.phase = .idle → s.rdPort = none → s.wrPort = none → s.requests = [w] →
    (∀ t ∈ before, t.outside = true) → (∀ t ∈ between, t.outside = true) →
    s.world = .accept :: before ++ .readReturn raw :: between ++ [.writeReturn ret] →
    ∃ t, runFor (before.length + between.length + 3) s = .next t ∧ t.phase = .idle ∧ t.world = [] ∧
      t.responses = (procedure s.cfg w (adapt s.widths raw) (adaptWrite s.widths ret.result)).1 :: s.responses ∧
      t.calls = (procedure s.cfg w (adapt s.widths raw) (adaptWrite s.widths ret.result)).2 ++ s.calls

/-- The two GET forms from IDLE, under the ideal device with no other agent: two steps end the operation with the state read
from REG, one read, no write, and REG as it was (41_get.md R84, R85; 20_memory.md R35, R43). -/
def Obligations.GetUnderTheIdealDevice : Prop :=
  ∀ (s : State) (i : Instr) (rest : List ReqWord), i.wellFormed = true → isSet i = false →
    s.phase = .idle → Undisturbed s → s.requests = encode i :: rest → s.rdPort = none → legal s.reg = true →
    runFor 2 s = .next { s with
      requests := rest, reqOp := 0#1, reqAll := i.request.all, reqIdx := i.request.idx, reqSt := i.request.st,
      rdByte := s.reg, calls := .read s.cfg :: s.calls,
      responses := (if i.request.all = 1#1 then .okGetAll (decodeStates s.reg)
        else .okGetOne (if s.reg.getLsbD (3 - i.request.idx.toNat) then .off else .on)) :: s.responses }

/-- The four SET forms from IDLE, under the ideal device with no other agent: three steps end the operation with the new
byte in REG and in the response, the ideal device's acknowledgment on `ACK_W` wires, one read and one write, even where the byte is unchanged (42_set.md R93 to R96; 20_memory.md
R35, R43, R44). -/
def Obligations.SetUnderTheIdealDevice : Prop :=
  ∀ (s : State) (i : Instr) (st : RelayState) (rest : List ReqWord), i.wellFormed = true → isSet i = true →
    stateOf i.request.st = some st → s.phase = .idle → Undisturbed s → s.requests = encode i :: rest →
    s.rdPort = none → s.wrPort = none → legal s.reg = true →
    runFor 3 s = .next { s with
      requests := rest, reqOp := 1#1, reqAll := i.request.all, reqIdx := i.request.idx, reqSt := i.request.st,
      rdByte := s.reg, reg := newByte s.reg i.request.all i.request.idx st,
      calls := .write s.cfg (newByte s.reg i.request.all i.request.idx st) :: .read s.cfg :: s.calls,
      responses := .okSet (newByte s.reg i.request.all i.request.idx st) (onWires s.widths.ackW 1) :: s.responses }

/-- Read-back after a SET (42_set.md section 7; the spec marks R101 as its own inference), under the ideal device with no other writer: after `SET c,st`, `GET (3 - c)` reports `st`,
and every other `GET d` reports what register bit `3 - d` held before; after `SET all,st`, every `GET d` reports `st`, and
`GET all` reports it for all four channels. -/
def Obligations.ReadBackAfterSet : Prop :=
  ∀ (s : State) (c d : Fin 4) (st : RelayState),
    s.phase = .idle → Undisturbed s → s.rdPort = none → s.wrPort = none → legal s.reg = true →
    (∃ t, runFor 5 { s with requests := [encode (setChannel c st), encode (getChannel d)] } = .next t ∧
      t.responses.head? = some (.okGetOne
        (if d.val = 3 - c.val then st else if s.reg.getLsbD (3 - d.val) then .off else .on))) ∧
    (∃ t, runFor 5 { s with requests := [encode (setEvery st), encode (getChannel d)] } = .next t ∧
      t.responses.head? = some (.okGetOne st)) ∧
    (∃ t, runFor 5 { s with requests := [encode (setEvery st), encode (.getAll 0x00#8 0b00#2)] } = .next t ∧
      t.responses.head? = some (.okGetAll #v[st, st, st, st]))

/-- 41_get.md section 5 (the spec marks R86 as its own inference). For every legal byte, what `GET c` answers is the element `c` of what `GET all` answers from the same byte. -/
def Obligations.SingleChannelAndVectorAgree : Prop :=
  ∀ (s t : State) (b : Byte) (c : Fin 4) (st su : BitVec 2) (idx : Byte),
    s.phase = .rdPend → t.phase = .rdPend → s.rdPort = some (.val b) → t.rdPort = some (.val b) → legal b = true →
    ∃ (s' t' : State) (v : ChannelStateVector),
      exec (.getCh (BitVec.ofNat 8 c.val) st) s = .next s' ∧ exec (.getAll idx su) t = .next t' ∧
      s'.responses = .okGetOne (v.get c) :: s.responses ∧ t'.responses = .okGetAll v :: t.responses

/-- The lost update, 70_reset_and_hazards.md section 3 (the spec marks R135 as its own inference) and 10_state.md section 8: a byte another agent stores between a SET's read and its write is overwritten by a byte
made from the stale copy, and the SET still responds OK. -/
def Obligations.UpdateInTheWindowIsLost : Prop :=
  ∀ (s : State) (st : RelayState) (v : Byte), Sound s → s.phase = .wrPend → stateOf s.reqSt = some st →
    s.world = [.otherWrite v, .writeIdeal] →
    ∃ t, runFor 2 s = .next t ∧ t.reg = newByte s.rdByte s.reqAll s.reqIdx st ∧
      t.responses = .okSet (newByte s.rdByte s.reqAll s.reqIdx st) (onWires s.widths.ackW 1) :: s.responses

/-- The lock-out, 70_reset_and_hazards.md section 3 (the spec marks R137 as its own inference). While REG holds an illegal byte and no other agent writes it, under the ideal device, every accepted
GET and SET ends with InvalidRegisterByte after its one read; and no run of any length, with any requests, changes REG or
reaches a write. -/
def Obligations.IllegalRegisterLocksTheBlockOut : Prop :=
  (∀ (s : State) (w : ReqWord) (rest : List ReqWord) (i : Instr),
    s.phase = .idle → Undisturbed s → s.rdPort = none → legal s.reg = false → s.requests = w :: rest →
    decode w = .ok i →
    ∃ t, runFor 2 s = .next t ∧ t.phase = .idle ∧ t.reg = s.reg ∧
      t.responses = .failed .invalidRegisterByte :: s.responses ∧ t.calls = .read s.cfg :: s.calls) ∧
  (∀ (s : State) (n : Nat), s.phase = .idle → Undisturbed s → s.rdPort = none → s.wrPort = none → legal s.reg = false →
    ∃ t, runFor n s = .next t ∧ t.reg = s.reg ∧ t.calls.countP Call.isWrite = s.calls.countP Call.isWrite)
end

