-- ==== Sys2Proof/Laws/Decode.lean ====
section
/-! SUPPORT. What the decoder and its helpers can answer. -/

namespace Sys2Proof

theorem bit_eq_zero_or_one (b : BitVec 1) : b = 0#1 ∨ b = 1#1 := by
  rcases b with ⟨⟨v, hv⟩⟩
  interval_cases v <;> simp

/-- A channel decodes exactly when the validator passes it (30_encoding.md R52, 40_validate.md R70). -/
theorem chan_eq_none (all : BitVec 1) (idx : Byte) : chan all idx = none ↔ validChannel all idx = false := by
  unfold chan validChannel
  by_cases h : all = 1#1
  · simp [h]
  · by_cases h' : idx.toNat < 4
    · simp [h, h']; omega
    · simp [h, h']; omega

/-- A state decodes exactly when the validator passes it (30_encoding.md R53, 40_validate.md R71). -/
theorem stateOf_eq_none (st : BitVec 2) : stateOf st = none ↔ validState st = false := by
  unfold stateOf validState
  by_cases h : st = 0b00#2
  · simp [h]
  · by_cases h' : st = 0b01#2
    · simp [h']
    · simp [h, h']

/-- An ordinal channel is coded with `all = 0`, and the sentinel with `all = 1` (30_encoding.md R52). -/
theorem chan_eq_some (all : BitVec 1) (idx : Byte) (c : Channel) (h : chan all idx = some c) :
    (c = .all ∧ all = 1#1) ∨ (all = 0#1 ∧ ∃ k, c = .ch k ∧ k.val = idx.toNat) := by
  unfold chan at h
  split at h
  · exact .inl ⟨by simpa using h.symm, by assumption⟩
  · split at h
    · refine .inr ⟨(bit_eq_zero_or_one all).resolve_right (by assumption), _, by simpa using h.symm, rfl⟩
    · cases h

theorem stateOf_off (st : BitVec 2) (h : stateOf st = some .off) : st = 0b00#2 := by
  unfold stateOf at h
  split at h
  · assumption
  · split at h <;> simp at h

theorem stateOf_on (st : BitVec 2) (h : stateOf st = some .on) : st = 0b01#2 := by
  unfold stateOf at h
  split at h
  · simp at h
  · split at h
    · assumption
    · simp at h

/-- A legal request is the request of the form it decodes to. -/
theorem decodeRequest_request (r : Request) (i : Instr) (h : decodeRequest r = .ok i) : i.request = r := by
  obtain ⟨op, st, all, idx⟩ := r
  unfold decodeRequest at h
  split at h
  · cases h
  · rename_i c hc
    simp only at hc h
    rcases chan_eq_some _ _ _ hc with ⟨rfl, rfl⟩ | ⟨rfl, k, rfl, -⟩
    all_goals
      split at h
      · rename_i h0
        obtain rfl : _ = i := by simpa using h
        simp [Instr.request, h0]
      · rename_i h1
        have h1 := (bit_eq_zero_or_one op).resolve_left h1
        rcases hs : stateOf st with _ | (_ | _)
        · simp [hs] at h
        · obtain rfl : _ = i := by simpa [hs] using h
          simp [Instr.request, h1, stateOf_on st hs]
        · obtain rfl : _ = i := by simpa [hs] using h
          simp [Instr.request, h1, stateOf_off st hs]

/-- A request is illegal exactly when one of the validators ACCEPT runs fails it, the channel's first (30_encoding.md R57,
60_exceptions.md R117). -/
theorem decodeRequest_illegal (r : Request) (e : DecodeError) (h : decodeRequest r = .illegal e) :
    (e = .invalidChannel ∧ validChannel r.all r.idx = false) ∨
    (e = .invalidState ∧ validChannel r.all r.idx = true ∧ r.op = 1#1 ∧ validState r.st = false) := by
  unfold decodeRequest at h
  split at h
  · rename_i hc
    exact .inl ⟨by simpa using h.symm, (chan_eq_none _ _).mp hc⟩
  · rename_i c hc
    have hv : validChannel r.all r.idx = true := by
      have := (chan_eq_none r.all r.idx).not.mp (by simp [hc])
      simpa using this
    split at h
    · split at h <;> cases h
    · rename_i h1
      rcases hs : stateOf r.st with _ | (_ | _)
      · simp only [hs] at h
        exact .inr ⟨by simpa using h.symm, hv, (bit_eq_zero_or_one _).resolve_left h1, (stateOf_eq_none _).mp hs⟩
      · rcases c <;> simp [hs] at h
      · rcases c <;> simp [hs] at h

/-- A legal request passes the validators ACCEPT runs (10_state.md R25). -/
theorem decodeRequest_ok_valid (r : Request) (i : Instr) (h : decodeRequest r = .ok i) :
    validChannel r.all r.idx = true ∧ (r.op = 1#1 → validState r.st = true) := by
  unfold decodeRequest at h
  split at h
  · cases h
  · rename_i c hc
    refine ⟨by simpa using (chan_eq_none r.all r.idx).not.mp (by simp [hc]), fun h1 => ?_⟩
    rcases hs : stateOf r.st with _ | st
    · simp [hs, h1] at h
    · simpa using (stateOf_eq_none r.st).not.mp (by simp [hs])

/-- A request that passes the validators is legal. -/
theorem decodeRequest_of_valid (r : Request) (hc : validChannel r.all r.idx = true)
    (hs : r.op = 1#1 → validState r.st = true) : ∃ i, decodeRequest r = .ok i := by
  rcases h : decodeRequest r with i | e
  · exact ⟨i, rfl⟩
  · rcases decodeRequest_illegal r e h with ⟨-, h'⟩ | ⟨-, -, h1, h'⟩
    · simp [h'] at hc
    · simp [h'] at hs; exact absurd h1 (by simp [hs])

/-- The fields of a word written from fields are those fields. -/
theorem Request.ofWord_toWord (r : Request) : Request.ofWord r.toWord = r := by
  obtain ⟨op, st, all, idx⟩ := r
  simp only [Request.ofWord, Request.toWord, Request.mk.injEq]
  refine ⟨?_, ?_, ?_, ?_⟩ <;>
    · ext k hk
      simp only [BitVec.getElem_extractLsb', BitVec.getLsbD_append]
      interval_cases k <;> simp

/-- The word written from the fields of a word is that word. -/
theorem Request.toWord_ofWord (w : ReqWord) : (Request.ofWord w).toWord = w := by
  simp only [Request.ofWord, Request.toWord]
  ext k hk
  simp only [BitVec.getElem_append, BitVec.getElem_extractLsb']
  interval_cases k <;> simp [BitVec.getLsbD_eq_getElem]

end Sys2Proof
end

