-- ==== Sys2Proof/Laws/Operands.lean ====
section
/-! SUPPORT. The pure functions on the byte, bit by bit. -/

namespace Sys2Proof.Machine

/-- The 8-bit complement bit by bit: `0xFF - m` is the bitwise complement (00_scope.md R6). -/
theorem not8_eq_not (m : Byte) : not8 m = ~~~ m := by
  have h : (255#8 : Byte) = BitVec.allOnes 8 := rfl
  rw [not8, h, BitVec.allOnes_sub_eq_not]

/-- The decoded vector, element by element. -/
theorem decodeStates_get (b : Byte) (i : Fin 4) :
    (decodeStates b).get i = relayOfBit (b.getLsbD (gbit i.val)) := by
  simp [decodeStates, Vector.get_eq_getElem]

/-- The element a GET of one channel selects, for an ordinal channel. -/
theorem selectOne_ordinal (v : ChannelStateVector) (idx : Byte) (h : idx.toNat < 4) :
    selectOne v idx = v.get ⟨idx.toNat, h⟩ := by
  unfold selectOne
  congr 1
  apply Fin.ext
  simp
  omega

/-- The legality test bit by bit (40_validate.md R73). -/
theorem legal_iff_bits (b : Byte) :
    legal b = true ↔ b.getLsbD 4 = true ∧ b.getLsbD 5 = true ∧ b.getLsbD 6 = true ∧ b.getLsbD 7 = true := by
  revert b
  decide

end Sys2Proof.Machine
end

