-- ==== Sys2Proof/Laws/State.lean ====
section
/-! SUPPORT. One lemma per field per update of the state, so that no proof unfolds a record update. -/

namespace Sys2Proof.Machine

@[simp] theorem issueRead_phase (s : State) : (issueRead s).phase = .rdPend := rfl
@[simp] theorem issueRead_reqOp (s : State) : (issueRead s).reqOp = s.reqOp := rfl
@[simp] theorem issueRead_reqAll (s : State) : (issueRead s).reqAll = s.reqAll := rfl
@[simp] theorem issueRead_reqIdx (s : State) : (issueRead s).reqIdx = s.reqIdx := rfl
@[simp] theorem issueRead_reqSt (s : State) : (issueRead s).reqSt = s.reqSt := rfl
@[simp] theorem issueRead_rdByte (s : State) : (issueRead s).rdByte = s.rdByte := rfl
@[simp] theorem issueRead_reg (s : State) : (issueRead s).reg = s.reg := rfl
@[simp] theorem issueRead_cfg (s : State) : (issueRead s).cfg = s.cfg := rfl
@[simp] theorem issueRead_widths (s : State) : (issueRead s).widths = s.widths := rfl
@[simp] theorem issueRead_rdPort (s : State) : (issueRead s).rdPort = s.rdPort := rfl
@[simp] theorem issueRead_wrPort (s : State) : (issueRead s).wrPort = s.wrPort := rfl
@[simp] theorem issueRead_requests (s : State) : (issueRead s).requests = s.requests := rfl
@[simp] theorem issueRead_responses (s : State) : (issueRead s).responses = s.responses := rfl
@[simp] theorem issueRead_calls (s : State) : (issueRead s).calls = .read s.cfg :: s.calls := rfl
@[simp] theorem issueRead_abandoned (s : State) : (issueRead s).abandoned = s.abandoned := rfl
@[simp] theorem issueRead_world (s : State) : (issueRead s).world = s.world := rfl
@[simp] theorem issueRead_transport (s : State) : (issueRead s).transport = s.transport := rfl
@[simp] theorem issueRead_draws (s : State) : (issueRead s).draws = s.draws := rfl

@[simp] theorem issueWrite_phase (v : Byte) (s : State) : (issueWrite v s).phase = .wrPend := rfl
@[simp] theorem issueWrite_reqOp (v : Byte) (s : State) : (issueWrite v s).reqOp = s.reqOp := rfl
@[simp] theorem issueWrite_reqAll (v : Byte) (s : State) : (issueWrite v s).reqAll = s.reqAll := rfl
@[simp] theorem issueWrite_reqIdx (v : Byte) (s : State) : (issueWrite v s).reqIdx = s.reqIdx := rfl
@[simp] theorem issueWrite_reqSt (v : Byte) (s : State) : (issueWrite v s).reqSt = s.reqSt := rfl
@[simp] theorem issueWrite_rdByte (v : Byte) (s : State) : (issueWrite v s).rdByte = s.rdByte := rfl
@[simp] theorem issueWrite_reg (v : Byte) (s : State) : (issueWrite v s).reg = s.reg := rfl
@[simp] theorem issueWrite_cfg (v : Byte) (s : State) : (issueWrite v s).cfg = s.cfg := rfl
@[simp] theorem issueWrite_widths (v : Byte) (s : State) : (issueWrite v s).widths = s.widths := rfl
@[simp] theorem issueWrite_rdPort (v : Byte) (s : State) : (issueWrite v s).rdPort = s.rdPort := rfl
@[simp] theorem issueWrite_wrPort (v : Byte) (s : State) : (issueWrite v s).wrPort = s.wrPort := rfl
@[simp] theorem issueWrite_requests (v : Byte) (s : State) : (issueWrite v s).requests = s.requests := rfl
@[simp] theorem issueWrite_responses (v : Byte) (s : State) : (issueWrite v s).responses = s.responses := rfl
@[simp] theorem issueWrite_calls (v : Byte) (s : State) : (issueWrite v s).calls = .write s.cfg v :: s.calls := rfl
@[simp] theorem issueWrite_abandoned (v : Byte) (s : State) : (issueWrite v s).abandoned = s.abandoned := rfl
@[simp] theorem issueWrite_world (v : Byte) (s : State) : (issueWrite v s).world = s.world := rfl
@[simp] theorem issueWrite_transport (v : Byte) (s : State) : (issueWrite v s).transport = s.transport := rfl
@[simp] theorem issueWrite_draws (v : Byte) (s : State) : (issueWrite v s).draws = s.draws := rfl

@[simp] theorem respond_phase (r : Response) (s : State) : (respond r s).phase = .idle := rfl
@[simp] theorem respond_reqOp (r : Response) (s : State) : (respond r s).reqOp = s.reqOp := rfl
@[simp] theorem respond_reqAll (r : Response) (s : State) : (respond r s).reqAll = s.reqAll := rfl
@[simp] theorem respond_reqIdx (r : Response) (s : State) : (respond r s).reqIdx = s.reqIdx := rfl
@[simp] theorem respond_reqSt (r : Response) (s : State) : (respond r s).reqSt = s.reqSt := rfl
@[simp] theorem respond_rdByte (r : Response) (s : State) : (respond r s).rdByte = s.rdByte := rfl
@[simp] theorem respond_reg (r : Response) (s : State) : (respond r s).reg = s.reg := rfl
@[simp] theorem respond_cfg (r : Response) (s : State) : (respond r s).cfg = s.cfg := rfl
@[simp] theorem respond_widths (r : Response) (s : State) : (respond r s).widths = s.widths := rfl
@[simp] theorem respond_rdPort (r : Response) (s : State) : (respond r s).rdPort = s.rdPort := rfl
@[simp] theorem respond_wrPort (r : Response) (s : State) : (respond r s).wrPort = s.wrPort := rfl
@[simp] theorem respond_requests (r : Response) (s : State) : (respond r s).requests = s.requests := rfl
@[simp] theorem respond_responses (r : Response) (s : State) : (respond r s).responses = r :: s.responses := rfl
@[simp] theorem respond_calls (r : Response) (s : State) : (respond r s).calls = s.calls := rfl
@[simp] theorem respond_abandoned (r : Response) (s : State) : (respond r s).abandoned = s.abandoned := rfl
@[simp] theorem respond_world (r : Response) (s : State) : (respond r s).world = s.world := rfl
@[simp] theorem respond_transport (r : Response) (s : State) : (respond r s).transport = s.transport := rfl
@[simp] theorem respond_draws (r : Response) (s : State) : (respond r s).draws = s.draws := rfl

@[simp] theorem raise_phase (e : Error) (s : State) : (raise e s).phase = .idle := rfl
@[simp] theorem raise_reqOp (e : Error) (s : State) : (raise e s).reqOp = s.reqOp := rfl
@[simp] theorem raise_reqAll (e : Error) (s : State) : (raise e s).reqAll = s.reqAll := rfl
@[simp] theorem raise_reqIdx (e : Error) (s : State) : (raise e s).reqIdx = s.reqIdx := rfl
@[simp] theorem raise_reqSt (e : Error) (s : State) : (raise e s).reqSt = s.reqSt := rfl
@[simp] theorem raise_rdByte (e : Error) (s : State) : (raise e s).rdByte = s.rdByte := rfl
@[simp] theorem raise_reg (e : Error) (s : State) : (raise e s).reg = s.reg := rfl
@[simp] theorem raise_cfg (e : Error) (s : State) : (raise e s).cfg = s.cfg := rfl
@[simp] theorem raise_widths (e : Error) (s : State) : (raise e s).widths = s.widths := rfl
@[simp] theorem raise_rdPort (e : Error) (s : State) : (raise e s).rdPort = s.rdPort := rfl
@[simp] theorem raise_wrPort (e : Error) (s : State) : (raise e s).wrPort = s.wrPort := rfl
@[simp] theorem raise_requests (e : Error) (s : State) : (raise e s).requests = s.requests := rfl
@[simp] theorem raise_responses (e : Error) (s : State) : (raise e s).responses = .failed e :: s.responses := rfl
@[simp] theorem raise_calls (e : Error) (s : State) : (raise e s).calls = s.calls := rfl
@[simp] theorem raise_abandoned (e : Error) (s : State) : (raise e s).abandoned = s.abandoned := rfl
@[simp] theorem raise_world (e : Error) (s : State) : (raise e s).world = s.world := rfl
@[simp] theorem raise_transport (e : Error) (s : State) : (raise e s).transport = s.transport := rfl
@[simp] theorem raise_draws (e : Error) (s : State) : (raise e s).draws = s.draws := rfl

@[simp] theorem latch_phase (r : Request) (s : State) : (latch r s).phase = s.phase := rfl
@[simp] theorem latch_reqOp (r : Request) (s : State) : (latch r s).reqOp = r.op := rfl
@[simp] theorem latch_reqAll (r : Request) (s : State) : (latch r s).reqAll = r.all := rfl
@[simp] theorem latch_reqIdx (r : Request) (s : State) : (latch r s).reqIdx = r.idx := rfl
@[simp] theorem latch_reqSt (r : Request) (s : State) : (latch r s).reqSt = r.st := rfl
@[simp] theorem latch_rdByte (r : Request) (s : State) : (latch r s).rdByte = s.rdByte := rfl
@[simp] theorem latch_reg (r : Request) (s : State) : (latch r s).reg = s.reg := rfl
@[simp] theorem latch_cfg (r : Request) (s : State) : (latch r s).cfg = s.cfg := rfl
@[simp] theorem latch_widths (r : Request) (s : State) : (latch r s).widths = s.widths := rfl
@[simp] theorem latch_rdPort (r : Request) (s : State) : (latch r s).rdPort = s.rdPort := rfl
@[simp] theorem latch_wrPort (r : Request) (s : State) : (latch r s).wrPort = s.wrPort := rfl
@[simp] theorem latch_requests (r : Request) (s : State) : (latch r s).requests = s.requests := rfl
@[simp] theorem latch_responses (r : Request) (s : State) : (latch r s).responses = s.responses := rfl
@[simp] theorem latch_calls (r : Request) (s : State) : (latch r s).calls = s.calls := rfl
@[simp] theorem latch_abandoned (r : Request) (s : State) : (latch r s).abandoned = s.abandoned := rfl
@[simp] theorem latch_world (r : Request) (s : State) : (latch r s).world = s.world := rfl
@[simp] theorem latch_transport (r : Request) (s : State) : (latch r s).transport = s.transport := rfl
@[simp] theorem latch_draws (r : Request) (s : State) : (latch r s).draws = s.draws := rfl

@[simp] theorem loseReg_phase (s : State) : (loseReg s).phase = s.phase := rfl
@[simp] theorem loseReg_reqOp (s : State) : (loseReg s).reqOp = s.reqOp := rfl
@[simp] theorem loseReg_reqAll (s : State) : (loseReg s).reqAll = s.reqAll := rfl
@[simp] theorem loseReg_reqIdx (s : State) : (loseReg s).reqIdx = s.reqIdx := rfl
@[simp] theorem loseReg_reqSt (s : State) : (loseReg s).reqSt = s.reqSt := rfl
@[simp] theorem loseReg_rdByte (s : State) : (loseReg s).rdByte = s.rdByte := rfl
@[simp] theorem loseReg_reg (s : State) : (loseReg s).reg = Config.unknownReg s.draws := rfl
@[simp] theorem loseReg_cfg (s : State) : (loseReg s).cfg = s.cfg := rfl
@[simp] theorem loseReg_widths (s : State) : (loseReg s).widths = s.widths := rfl
@[simp] theorem loseReg_rdPort (s : State) : (loseReg s).rdPort = s.rdPort := rfl
@[simp] theorem loseReg_wrPort (s : State) : (loseReg s).wrPort = s.wrPort := rfl
@[simp] theorem loseReg_requests (s : State) : (loseReg s).requests = s.requests := rfl
@[simp] theorem loseReg_responses (s : State) : (loseReg s).responses = s.responses := rfl
@[simp] theorem loseReg_calls (s : State) : (loseReg s).calls = s.calls := rfl
@[simp] theorem loseReg_abandoned (s : State) : (loseReg s).abandoned = s.abandoned := rfl
@[simp] theorem loseReg_world (s : State) : (loseReg s).world = s.world := rfl
@[simp] theorem loseReg_transport (s : State) : (loseReg s).transport = s.transport := rfl
@[simp] theorem loseReg_draws (s : State) : (loseReg s).draws = s.draws + 1 := rfl

@[simp] theorem presentNext_phase (w : ReqWord) (s : State) : (presentNext w s).phase = .idle := rfl
@[simp] theorem presentNext_reqOp (w : ReqWord) (s : State) : (presentNext w s).reqOp = s.reqOp := rfl
@[simp] theorem presentNext_reqAll (w : ReqWord) (s : State) : (presentNext w s).reqAll = s.reqAll := rfl
@[simp] theorem presentNext_reqIdx (w : ReqWord) (s : State) : (presentNext w s).reqIdx = s.reqIdx := rfl
@[simp] theorem presentNext_reqSt (w : ReqWord) (s : State) : (presentNext w s).reqSt = s.reqSt := rfl
@[simp] theorem presentNext_rdByte (w : ReqWord) (s : State) : (presentNext w s).rdByte = s.rdByte := rfl
@[simp] theorem presentNext_reg (w : ReqWord) (s : State) : (presentNext w s).reg = s.reg := rfl
@[simp] theorem presentNext_cfg (w : ReqWord) (s : State) : (presentNext w s).cfg = s.cfg := rfl
@[simp] theorem presentNext_widths (w : ReqWord) (s : State) : (presentNext w s).widths = s.widths := rfl
@[simp] theorem presentNext_rdPort (w : ReqWord) (s : State) : (presentNext w s).rdPort = s.rdPort := rfl
@[simp] theorem presentNext_wrPort (w : ReqWord) (s : State) : (presentNext w s).wrPort = s.wrPort := rfl
@[simp] theorem presentNext_requests (w : ReqWord) (s : State) : (presentNext w s).requests = w :: s.requests := rfl
@[simp] theorem presentNext_responses (w : ReqWord) (s : State) : (presentNext w s).responses = s.responses := rfl
@[simp] theorem presentNext_calls (w : ReqWord) (s : State) : (presentNext w s).calls = s.calls := rfl
@[simp] theorem presentNext_abandoned (w : ReqWord) (s : State) : (presentNext w s).abandoned = s.abandoned := rfl
@[simp] theorem presentNext_world (w : ReqWord) (s : State) : (presentNext w s).world = .accept :: s.world := rfl
@[simp] theorem presentNext_transport (w : ReqWord) (s : State) : (presentNext w s).transport = s.transport := rfl
@[simp] theorem presentNext_draws (w : ReqWord) (s : State) : (presentNext w s).draws = s.draws := rfl

@[simp] theorem loseLatches_phase (s : State) : (loseLatches s).phase = s.phase := rfl
@[simp] theorem loseLatches_reg (s : State) : (loseLatches s).reg = s.reg := rfl
@[simp] theorem loseLatches_cfg (s : State) : (loseLatches s).cfg = s.cfg := rfl
@[simp] theorem loseLatches_widths (s : State) : (loseLatches s).widths = s.widths := rfl
@[simp] theorem loseLatches_rdPort (s : State) : (loseLatches s).rdPort = s.rdPort := rfl
@[simp] theorem loseLatches_wrPort (s : State) : (loseLatches s).wrPort = s.wrPort := rfl
@[simp] theorem loseLatches_requests (s : State) : (loseLatches s).requests = s.requests := rfl
@[simp] theorem loseLatches_responses (s : State) : (loseLatches s).responses = s.responses := rfl
@[simp] theorem loseLatches_calls (s : State) : (loseLatches s).calls = s.calls := rfl
@[simp] theorem loseLatches_abandoned (s : State) : (loseLatches s).abandoned = s.abandoned := rfl
@[simp] theorem loseLatches_world (s : State) : (loseLatches s).world = s.world := rfl
@[simp] theorem loseLatches_transport (s : State) : (loseLatches s).transport = s.transport := rfl
@[simp] theorem loseLatches_draws (s : State) : (loseLatches s).draws = s.draws + 1 := rfl

@[simp] theorem discardLate_phase (k : Call → Bool) (s : State) : (discardLate k s).phase = s.phase := rfl
@[simp] theorem discardLate_reqOp (k : Call → Bool) (s : State) : (discardLate k s).reqOp = s.reqOp := rfl
@[simp] theorem discardLate_reqAll (k : Call → Bool) (s : State) : (discardLate k s).reqAll = s.reqAll := rfl
@[simp] theorem discardLate_reqIdx (k : Call → Bool) (s : State) : (discardLate k s).reqIdx = s.reqIdx := rfl
@[simp] theorem discardLate_reqSt (k : Call → Bool) (s : State) : (discardLate k s).reqSt = s.reqSt := rfl
@[simp] theorem discardLate_rdByte (k : Call → Bool) (s : State) : (discardLate k s).rdByte = s.rdByte := rfl
@[simp] theorem discardLate_reg (k : Call → Bool) (s : State) : (discardLate k s).reg = s.reg := rfl
@[simp] theorem discardLate_cfg (k : Call → Bool) (s : State) : (discardLate k s).cfg = s.cfg := rfl
@[simp] theorem discardLate_widths (k : Call → Bool) (s : State) : (discardLate k s).widths = s.widths := rfl
@[simp] theorem discardLate_rdPort (k : Call → Bool) (s : State) : (discardLate k s).rdPort = s.rdPort := rfl
@[simp] theorem discardLate_wrPort (k : Call → Bool) (s : State) : (discardLate k s).wrPort = s.wrPort := rfl
@[simp] theorem discardLate_requests (k : Call → Bool) (s : State) : (discardLate k s).requests = s.requests := rfl
@[simp] theorem discardLate_responses (k : Call → Bool) (s : State) : (discardLate k s).responses = s.responses := rfl
@[simp] theorem discardLate_calls (k : Call → Bool) (s : State) : (discardLate k s).calls = s.calls := rfl
@[simp] theorem discardLate_abandoned (k : Call → Bool) (s : State) : (discardLate k s).abandoned = s.abandoned.eraseP k := rfl
@[simp] theorem discardLate_world (k : Call → Bool) (s : State) : (discardLate k s).world = s.world := rfl
@[simp] theorem discardLate_transport (k : Call → Bool) (s : State) : (discardLate k s).transport = s.transport := rfl
@[simp] theorem discardLate_draws (k : Call → Bool) (s : State) : (discardLate k s).draws = s.draws := rfl

end Sys2Proof.Machine
end

