-- ==== Sys2Proof/Laws/Ops.lean ====
section
/-! SUPPORT. For each shared operation, everything it can do, said once; and the same for the step. -/

namespace Sys2Proof.Machine

open Host

/-- ACCEPT reports an invalid channel, or (SET only) an invalid state, or latches the request and issues the read
(10_state.md R25). -/
theorem accept_cases (r : Request) (s : State) :
    (validChannel r.all r.idx = false ∧ accept r s = raise .invalidChannel s) ∨
    (validChannel r.all r.idx = true ∧ r.op = 1#1 ∧ validState r.st = false ∧ accept r s = raise .invalidState s) ∨
    (validChannel r.all r.idx = true ∧ (r.op = 1#1 → validState r.st = true) ∧
      accept r s = issueRead (latch r s)) := by
  unfold accept
  rcases hc : validChannel r.all r.idx with _ | _
  · exact .inl ⟨rfl, by simp⟩
  · by_cases h : r.op = 1#1 ∧ validState r.st = false
    · exact .inr (.inl ⟨rfl, h.1, h.2, by simp [h]⟩)
    · refine .inr (.inr ⟨rfl, fun h1 => ?_, by simp [h]⟩)
      simpa [h1] using h

/-- READ_RETURN waits, passes a failure on, goes on with a legal byte, or rejects the byte (10_state.md R25). -/
theorem readReturn_cases (k : Byte → State → State) (s : State) :
    (s.rdPort = none ∧ readReturn k s = s) ∨
    (∃ e, s.rdPort = some (.err e) ∧ readReturn k s = raise (.transportError e) { s with rdPort := none }) ∨
    (∃ b, s.rdPort = some (.val b) ∧ legal b = true ∧ readReturn k s = k b { s with rdPort := none, rdByte := b }) ∨
    (∃ b, s.rdPort = some (.val b) ∧ legal b = false ∧
      readReturn k s = raise .invalidRegisterByte { s with rdPort := none, rdByte := b }) := by
  unfold readReturn
  split
  · exact .inl ⟨by assumption, rfl⟩
  · exact .inr (.inl ⟨_, by assumption, rfl⟩)
  · rename_i b hb
    rcases hl : legal b with _ | _
    · exact .inr (.inr (.inr ⟨b, hb, hl, by simp⟩))
    · exact .inr (.inr (.inl ⟨b, hb, hl, by simp⟩))

/-- A write coming back changes the device register, and counts a free value if it failed; nothing else. -/
theorem deviceAfterWrite_spec (sent : Byte) (ret : WriteReturn) (s : State) :
    ∃ v n, deviceAfterWrite sent ret s = { s with reg := v, draws := n } := by
  unfold deviceAfterWrite loseReg
  split
  · exact ⟨_, s.draws, rfl⟩
  · exact ⟨_, s.draws, rfl⟩
  · exact ⟨_, _, rfl⟩

/-- WRITE_RETURN waits, or ends the operation with the byte sent or the failure (10_state.md R25). -/
theorem writeReturn_cases (sent : Byte) (s : State) :
    (s.wrPort = none ∧ writeReturn sent s = s) ∨
    (∃ ret a, s.wrPort = some ret ∧ ret.result = .ack a ∧
      writeReturn sent s = respond (.okSet sent a) (deviceAfterWrite sent ret { s with wrPort := none })) ∨
    (∃ ret e, s.wrPort = some ret ∧ ret.result = .err e ∧
      writeReturn sent s = raise (.transportError e) (deviceAfterWrite sent ret { s with wrPort := none })) := by
  unfold writeReturn
  split
  · exact .inl ⟨by assumption, rfl⟩
  · rename_i ret hr
    rcases hres : ret.result with a | e
    · exact .inr (.inl ⟨ret, a, hr, hres, by simp [answerWrite]⟩)
    · exact .inr (.inr ⟨ret, e, hr, hres, by simp [answerWrite]⟩)

/-- What a port carries has the port's width. -/
theorem onWires_lt (width payload : Nat) : onWires width payload < 2 ^ width := Nat.mod_lt _ (Nat.two_pow_pos _)

/-- A payload of the port's width is carried unchanged (60_exceptions.md R114). -/
theorem onWires_eq {width payload : Nat} (h : payload < 2 ^ width) : onWires width payload = payload := Nat.mod_eq_of_lt h

/-- The error payload the read adapter presents has its width. -/
theorem adapt_fits (w : Widths) (raw : RawRead) (e : ErrPayload) (h : adapt w raw = .err e) : e < 2 ^ w.errW := by
  cases raw <;> simp only [adapt, reduceCtorEq, ReadResult.err.injEq] at h
  exact h ▸ onWires_lt _ _

/-- The payloads of a write's result at the port have their widths. -/
theorem adaptWrite_fits (w : Widths) (r : WriteResult) :
    (∀ a, adaptWrite w r = .ack a → a < 2 ^ w.ackW) ∧ (∀ e, adaptWrite w r = .err e → e < 2 ^ w.errW) := by
  cases r <;> simp [adaptWrite, onWires_lt]

/-- The outstanding call is one that was issued. -/
theorem mem_calls_of_mem_outstanding (s : State) (c : Call) (h : c ∈ outstanding s) : c ∈ s.calls := by
  unfold outstanding at h
  split at h
  · simp at h
  · exact List.mem_of_mem_head? (by simpa using h)
  · exact List.mem_of_mem_head? (by simpa using h)

/-- The reset of the block goes to IDLE, empties the ports, abandons the call outstanding, and changes the latches, `RD_BYTE`, the count of free values,
and REG only if a write was outstanding (70_reset_and_hazards.md R131). -/
theorem blockReset_spec (s : State) :
    ∃ (r : Request) (b v : Byte) (n : Nat), (s.phase ≠ .wrPend → v = s.reg) ∧
      blockReset s = { latch r s with
        rdByte := b, reg := v, draws := n, phase := .idle, rdPort := none, wrPort := none,
        abandoned := s.abandoned ++ outstanding s } := by
  unfold blockReset
  by_cases h : s.phase = .wrPend
  · exact ⟨_, _, _, _, fun h' => absurd h h', by simp only [h, if_true]; rfl⟩
  · exact ⟨_, _, _, _, fun _ => rfl, by simp only [h, if_false]; rfl⟩

/-- Every GET form is the GET procedure on its own request. -/
theorem exec_get (i : Instr) (h : i.request.op = 0#1) :
    ∃ answer : Byte → Response, ∀ s, exec i s = getOperation i.request answer s := by
  cases i
  case getCh => exact ⟨_, fun _ => rfl⟩
  case getAll => exact ⟨_, fun _ => rfl⟩
  all_goals simp [Instr.request] at h

/-- Every SET form is the SET procedure on its own request, with the encoder at its own operands (42_set.md R92). -/
theorem exec_set (i : Instr) (h : i.request.op = 1#1) :
    ∃ st, stateOf i.request.st = some st ∧
      ∀ s, exec i s = setOperation i.request (fun b => newByte b i.request.all i.request.idx st) s := by
  cases i
  case setChOff => exact ⟨.off, rfl, fun _ => rfl⟩
  case setChOn => exact ⟨.on, rfl, fun _ => rfl⟩
  case setAllOff => exact ⟨.off, rfl, fun _ => rfl⟩
  case setAllOn => exact ⟨.on, rfl, fun _ => rfl⟩
  all_goals simp [Instr.request] at h

/-- In IDLE an instruction's event is ACCEPT of its request. -/
theorem exec_idle (i : Instr) (s : State) (h : s.phase = .idle) : exec i s = .next (accept i.request s) := by
  rcases bit_eq_zero_or_one i.request.op with h0 | h1
  · obtain ⟨_, ha⟩ := exec_get i h0
    simp [ha, getOperation, h]
  · obtain ⟨_, _, ha⟩ := exec_set i h1
    simp [ha, setOperation, h]

/-- The instruction the latches hold has the latches as its request. -/
theorem latched_request (s : State) (i : Instr) (h : decode (latchedWord s) = .ok i) :
    i.request = { op := s.reqOp, st := s.reqSt, all := s.reqAll, idx := s.reqIdx } := by
  rw [decode, latchedWord, Request.ofWord_toWord] at h
  exact decodeRequest_request _ _ h

/-- The request of a word is the request of the instruction it decodes to. -/
theorem decode_request (w : ReqWord) (i : Instr) (h : decode w = .ok i) : i.request = Request.ofWord w :=
  decodeRequest_request _ _ h

/-- What one turn can do to a state: nothing, a word presented, a byte stored by another agent, a late result discarded, a reset, an ACCEPT, or the
next event of the instruction the latches hold. -/
inductive TurnEffect (turn : Turn) (s : State) : Action → Prop where
  | nothing : TurnEffect turn s (.done (.next s))
  | presented (w : ReqWord) (ht : turn = .present w) : TurnEffect turn s (.done (.next { s with requests := s.requests ++ [w] }))
  | stored (v : Byte) (ht : turn = .otherWrite v) : TurnEffect turn s (.done (.next { s with reg := v }))
  | late (ofKind : Call → Bool) : TurnEffect turn s (.done (.next (discardLate ofKind s)))
  | reset (ht : turn = .blockReset) : TurnEffect turn s (.done (.next (blockReset s)))
  | illegal (w : ReqWord) (rest : List ReqWord) (e : DecodeError) (hp : s.phase = .idle) (hr : s.requests = w :: rest)
      (hd : decode w = .illegal e) :
      TurnEffect turn s (.done (.next (accept (Request.ofWord w) { s with requests := rest })))
  | accepted (w : ReqWord) (rest : List ReqWord) (i : Instr) (hp : s.phase = .idle) (hr : s.requests = w :: rest)
      (hd : decode w = .ok i) : TurnEffect turn s (.run i { s with requests := rest })
  | read (res : ReadResult) (i : Instr) (hp : s.phase = .rdPend) (hd : decode (latchedWord s) = .ok i)
      (hf : ∀ e, res = .err e → e < 2 ^ s.widths.errW) :
      TurnEffect turn s (.run i { s with rdPort := some res })
  | wrote (ret : WriteReturn) (i : Instr) (hp : s.phase = .wrPend) (hd : decode (latchedWord s) = .ok i)
      (ha : ∀ a, ret.result = .ack a → a < 2 ^ s.widths.ackW) (hf : ∀ e, ret.result = .err e → e < 2 ^ s.widths.errW) :
      TurnEffect turn s (.run i { s with wrPort := some ret })
  | unsound (e : DecodeError) (hp : s.phase ≠ .idle) (hd : decode (latchedWord s) = .illegal e) :
      TurnEffect turn s (.done (.fault .latchesNotLegal))

theorem acceptTurn_effect (turn : Turn) (s : State) : TurnEffect turn s (acceptTurn s) := by
  unfold acceptTurn
  split
  · rename_i w rest hp hr
    split
    · exact .accepted w rest _ hp hr (by assumption)
    · exact .illegal w rest _ hp hr (by assumption)
  · exact .nothing

theorem readTurn_effect (turn : Turn) (res : ReadResult) (s : State)
    (hf : ∀ e, res = .err e → e < 2 ^ s.widths.errW) : TurnEffect turn s (readTurn res s) := by
  unfold readTurn resume
  split
  · rename_i hp
    split
    · exact .read res _ hp (by assumption) hf
    · exact .unsound _ (by simp [hp]) (by assumption)
  · exact .late _

theorem writeTurn_effect (turn : Turn) (ret : WriteReturn) (s : State) : TurnEffect turn s (writeTurn ret s) := by
  unfold writeTurn resume
  split
  · rename_i hp
    split
    · exact .wrote _ _ hp (by assumption) (adaptWrite_fits _ _).1 (adaptWrite_fits _ _).2
    · exact .unsound _ (by simp [hp]) (by assumption)
  · exact .late _

theorem takeTurn_effect (t : Turn) (s : State) : TurnEffect t s (takeTurn t s) := by
  cases t
  case present w => exact .presented w rfl
  case accept => exact acceptTurn_effect _ s
  case readReturn raw => exact readTurn_effect _ _ s (adapt_fits _ _)
  case readIdeal => exact readTurn_effect _ _ s (by simp [idealRead])
  case lateRead => exact .late _
  case writeReturn ret => exact writeTurn_effect _ _ s
  case writeIdeal => exact writeTurn_effect _ _ s
  case lateWrite => exact .late _
  case otherWrite v => exact .stored v rfl
  case blockReset => exact .reset rfl
  case wait => exact .nothing

/-- A step is one turn, the first listed or the default, taken on the state with that turn used up. -/
theorem fetch_effect (s : State) :
    ∃ turn turns, (s.world = turn :: turns ∨ (s.world = [] ∧ turns = [] ∧ turn = defaultTurn s)) ∧
      TurnEffect turn { s with world := turns } (fetch s) := by
  unfold fetch
  split
  · rename_i h
    refine ⟨defaultTurn s, [], .inr ⟨h, rfl, rfl⟩, ?_⟩
    rw [← h]
    exact takeTurn_effect _ s
  · rename_i t rest h
    exact ⟨t, rest, .inl h, takeTurn_effect t _⟩

/-- Everything a step can do, said once. -/
inductive StepEffect (turn : Turn) (s t : State) : Prop where
  | nothing (h : t = s)
  | presented (w : ReqWord) (ht : turn = .present w) (h : t = { s with requests := s.requests ++ [w] })
  | stored (v : Byte) (ht : turn = .otherWrite v) (h : t = { s with reg := v })
  | late (ofKind : Call → Bool) (h : t = discardLate ofKind s)
  | reset (ht : turn = .blockReset) (h : t = blockReset s)
  | accepted (w : ReqWord) (rest : List ReqWord) (hp : s.phase = .idle) (hr : s.requests = w :: rest)
      (h : t = accept (Request.ofWord w) { s with requests := rest })
  | read (res : ReadResult) (i : Instr) (hp : s.phase = .rdPend) (hd : decode (latchedWord s) = .ok i)
      (hf : ∀ e, res = .err e → e < 2 ^ s.widths.errW)
      (h : exec i { s with rdPort := some res } = .next t)
  | wrote (ret : WriteReturn) (i : Instr) (hp : s.phase = .wrPend) (hd : decode (latchedWord s) = .ok i)
      (ha : ∀ a, ret.result = .ack a → a < 2 ^ s.widths.ackW) (hf : ∀ e, ret.result = .err e → e < 2 ^ s.widths.errW)
      (h : exec i { s with wrPort := some ret } = .next t)

/-- If a step answers a next state, one of these cases holds of the state with the turn used up. -/
theorem step_cases (s t : State) (h : step s = .next t) :
    ∃ turn turns, (s.world = turn :: turns ∨ (s.world = [] ∧ turns = [] ∧ turn = defaultTurn s)) ∧
      StepEffect turn { s with world := turns } t := by
  obtain ⟨turn, turns, hw, he⟩ := fetch_effect s
  refine ⟨turn, turns, hw, ?_⟩
  rw [step] at h
  generalize fetch s = a at h he
  cases he with
  | nothing => exact .nothing (by simpa using h.symm)
  | presented w ht => exact .presented w ht (by simpa using h.symm)
  | stored v ht => exact .stored v ht (by simpa using h.symm)
  | late k => exact .late k (by simpa using h.symm)
  | reset ht => exact .reset ht (by simpa using h.symm)
  | illegal w rest e hp hr hd => exact .accepted w rest hp hr (by simpa using h.symm)
  | accepted w rest i hp hr hd =>
    refine .accepted w rest hp hr ?_
    simp only at h
    rw [exec_idle i _ (by simpa using hp), decode_request w i hd] at h
    simpa using h.symm
  | read res i hp hd hf => exact .read res i hp hd hf h
  | wrote ret i hp hd ha hf => exact .wrote ret i hp hd ha hf h
  | unsound e hp hd => simp at h

end Sys2Proof.Machine
end

