-- ==== Sys2Proof/Laws/PerInstr.lean ====
section
/-! SUPPORT. Facts about each instruction as syntax, one lemma per constructor. -/

namespace Sys2Proof.Laws

/-- The word of a well-formed instruction matches its row of the opcode map (30_encoding.md R55). -/
def EncodingMatchesRow.Statement (i : Instr) : Prop := i.wellFormed = true → i.row.matches (encode i) = true

theorem EncodingMatchesRow.getCh (idx : Byte) (st : BitVec 2) : EncodingMatchesRow.Statement (.getCh idx st) := by
  unfold EncodingMatchesRow.Statement
  revert idx st
  decide +kernel

theorem EncodingMatchesRow.getAll (idx : Byte) (st : BitVec 2) : EncodingMatchesRow.Statement (.getAll idx st) := by
  unfold EncodingMatchesRow.Statement
  revert idx st
  decide +kernel

theorem EncodingMatchesRow.setChOff (idx : Byte) : EncodingMatchesRow.Statement (.setChOff idx) := by
  unfold EncodingMatchesRow.Statement
  revert idx
  decide +kernel

theorem EncodingMatchesRow.setChOn (idx : Byte) : EncodingMatchesRow.Statement (.setChOn idx) := by
  unfold EncodingMatchesRow.Statement
  revert idx
  decide +kernel

theorem EncodingMatchesRow.setAllOff (idx : Byte) : EncodingMatchesRow.Statement (.setAllOff idx) := by
  unfold EncodingMatchesRow.Statement
  revert idx
  decide +kernel

theorem EncodingMatchesRow.setAllOn (idx : Byte) : EncodingMatchesRow.Statement (.setAllOn idx) := by
  unfold EncodingMatchesRow.Statement
  revert idx
  decide +kernel

end Sys2Proof.Laws
end

