-- ==== Sys2Proof/Laws/Run.lean ====
section
/-! SUPPORT. Runs of the machine. -/

namespace Sys2Proof.Machine

open Host

/-- A run of the model is a run of the host's machine. -/
theorem runFor_eq_core_run (n : Nat) (s : State) : runFor n s = core.run n s := by
  induction n generalizing s with
  | zero => rfl
  | succ n ih =>
    rcases h : step s with t | r | r
    all_goals
      have h' : core.step s = step s := rfl
      rw [h] at h'
      simp only [runFor, h, Core.run, h']
    · exact ih t
    all_goals rfl

/-- A run goes on from the next state. -/
theorem runFor_succ (n : Nat) (s t : State) (h : step s = .next t) : runFor (n + 1) s = runFor n t := by
  simp only [runFor, h]

/-- A run of `n + m` steps is a run of `n` and then one of `m`. -/
theorem runFor_add (n m : Nat) (s t : State) (h : runFor n s = .next t) : runFor (n + m) s = runFor m t := by
  induction n generalizing s with
  | zero =>
    obtain rfl : s = t := by simpa [runFor] using h
    rw [Nat.zero_add]
  | succ n ih =>
    rcases hs : step s with u | r | r
    · rw [runFor_succ _ _ _ hs] at h
      rw [Nat.add_right_comm, runFor_succ _ _ _ hs]
      exact ih u h
    · simp [runFor, hs] at h
    · simp [runFor, hs] at h

end Sys2Proof.Machine
end

