-- ==== Sys2Proof/Tests/Slice0.lean ====
section
/-! SUPPORT. Tests: words decoded as the spec writes them, well-formedness, one step of each instruction against the spec's
vectors (95_test_vectors.md), and for every statement with hypotheses a state and operands that meet them. -/

namespace Sys2Proof.Tests

open Sys2Proof Sys2Proof.Machine Host

/-! ## Small states -/

def cfg : Cfg := { addr := 1, register := 2, bus := 3 }

/-- In IDLE with REG at `r`, the words `ws` waiting and the turns `turns` to come. -/
def idleState (r : Byte) (ws : List ReqWord) (turns : List Turn) : State :=
  { State.resetWith r cfg Config.defaultWidths with requests := ws, world := turns }

/-- In RD_PEND for the instruction `i`, with the turns `turns` to come. -/
def rdState (i : Instr) (turns : List Turn) : State :=
  { State.resetWith 0xFF#8 cfg Config.defaultWidths with
    phase := .rdPend, reqOp := i.request.op, reqAll := i.request.all, reqIdx := i.request.idx, reqSt := i.request.st,
    calls := [.read cfg], world := turns }

/-- In WR_PEND for `SET 0,on` read from 0xFF (95_test_vectors.md P4, after step 3 of instance A). -/
def wrState (turns : List Turn) : State :=
  { State.resetWith 0xFF#8 cfg Config.defaultWidths with
    phase := .wrPend, reqOp := 1#1, reqAll := 0#1, reqIdx := 0x00#8, reqSt := 0b01#2, rdByte := 0xFF#8,
    calls := [.write cfg 0xFE#8, .read cfg], world := turns }

def withRead (r : ReadResult) (s : State) : State := { s with rdPort := some r }
def withWrite (r : WriteReturn) (s : State) : State := { s with wrPort := some r }
def acked : WriteReturn := { result := .ack 1, held := none }
def failedWrite : WriteReturn := { result := .err 0x17, held := none }
def failedWriteHeld : WriteReturn := { result := .err 0x17, held := some 0xFB#8 }

def responseOf : Outcome State Fault Refusal → Option Response
  | .next t => t.responses.head?
  | .fault _ => none
  | .refused _ => none

def callOf : Outcome State Fault Refusal → Option Call
  | .next t => t.calls.head?
  | .fault _ => none
  | .refused _ => none

def regOf : Outcome State Fault Refusal → Option Byte
  | .next t => some t.reg
  | .fault _ => none
  | .refused _ => none

def phaseOf : Outcome State Fault Refusal → Option Phase
  | .next t => some t.phase
  | .fault _ => none
  | .refused _ => none

/-! ## Decoding: the words of 95_test_vectors.md V-ENC, bit by bit -/

theorem test_decode_getCh : decode 0b000000000011#12 = .ok (.getCh 0x03#8 0b00#2) := by decide
theorem test_decode_getCh_st_ignored : decode 0x601#12 = .ok (.getCh 0x01#8 0b11#2) := by decide
theorem test_decode_getAll : decode 0b000100000000#12 = .ok (.getAll 0x00#8 0b00#2) := by decide
theorem test_decode_setChOff : decode 0b100000000010#12 = .ok (.setChOff 0x02#8) := by decide
theorem test_decode_setChOn : decode 0b101000000001#12 = .ok (.setChOn 0x01#8) := by decide
theorem test_decode_setAllOff : decode 0b100100000000#12 = .ok (.setAllOff 0x00#8) := by decide
theorem test_decode_setAllOn_idx_ignored : decode 0xB5A#12 = .ok (.setAllOn 0x5A#8) := by decide
theorem test_decode_channel_4 : decode 0x004#12 = .illegal .invalidChannel := by decide
theorem test_decode_channel_255 : decode 0xAFF#12 = .illegal .invalidChannel := by decide
theorem test_decode_state_2 : decode 0xC01#12 = .illegal .invalidState := by decide
theorem test_decode_illegal_twice : decode 0xE09#12 = .illegal .invalidChannel := by decide
theorem test_encode_setChOn : encode (.setChOn 0x03#8) = 0xA03#12 := by decide
theorem test_encode_getCh : encode (.getCh 0x01#8 0b11#2) = 0x601#12 := by decide
theorem test_decodeTableWord : decodeTableWord 16 0xB00 = some (.setAllOn 0x00#8) := by decide
theorem test_decodeTableWord_too_wide : decodeTableWord 16 0x1B00 = none := by decide

/-! ## Well-formedness: the one check, in each form it guards -/

theorem test_illFormed_getCh : (Instr.getCh 0x04#8 0b00#2).wellFormed = false := by decide
theorem test_illFormed_setChOff : (Instr.setChOff 0x80#8).wellFormed = false := by decide
theorem test_illFormed_setChOn : (Instr.setChOn 0xFF#8).wellFormed = false := by decide
theorem test_wellFormed_ordinal_3 : (Instr.getCh 0x03#8 0b11#2).wellFormed = true := by decide

/-! ## The register byte (95_test_vectors.md V-VAL, E1, V-SET) -/

theorem test_legal_EF : legal 0xEF#8 = false := by decide
theorem test_legal_08 : legal 0x08#8 = false := by decide
theorem test_decode_F8 : decodeStates 0xF8#8 = #v[.off, .on, .on, .on] := by decide
theorem test_rdata_F6 : rdataOf (decodeStates 0xF6#8) = 0b1001#4 := by decide
theorem test_complement_is_8_bits : newByte 0xFF#8 0#1 0x00#8 .on = 0xFE#8 := by decide

/-! ## One step of each instruction -/

/-- 95_test_vectors.md E1. -/
theorem test_getCh_F8 : responseOf (exec (.getCh 0x00#8 0b00#2) (withRead (.val 0xF8#8) (rdState (.getCh 0x00#8 0b00#2) []))) =
    some (.okGetOne .off) := by decide
/-- 95_test_vectors.md V-GET, `GET 1` with `st = 0b11` on 0xFA. -/
theorem test_getCh_FA : responseOf (exec (.getCh 0x01#8 0b11#2) (withRead (.val 0xFA#8) (rdState (.getCh 0x01#8 0b11#2) []))) =
    some (.okGetOne .on) := by decide
/-- 95_test_vectors.md V-GET. -/
theorem test_getAll_F1 : responseOf (exec (.getAll 0x00#8 0b00#2) (withRead (.val 0xF1#8) (rdState (.getAll 0x00#8 0b00#2) []))) =
    some (.okGetAll #v[.on, .on, .on, .off]) := by decide
/-- 95_test_vectors.md V-ERR. -/
theorem test_getAll_00 : responseOf (exec (.getAll 0x00#8 0b00#2) (withRead (.val 0x00#8) (rdState (.getAll 0x00#8 0b00#2) []))) =
    some (.failed .invalidRegisterByte) := by decide
/-- 95_test_vectors.md P5: the write attempted is of 0xFB. -/
theorem test_setChOff_F3 : callOf (exec (.setChOff 0x03#8) (withRead (.val 0xF3#8) (rdState (.setChOff 0x03#8) []))) =
    some (.write cfg 0xFB#8) := by decide
/-- 95_test_vectors.md V-SET: no change, still written. -/
theorem test_setChOff_FF : callOf (exec (.setChOff 0x00#8) (withRead (.val 0xFF#8) (rdState (.setChOff 0x00#8) []))) =
    some (.write cfg 0xFF#8) := by decide
/-- 95_test_vectors.md V-SET. -/
theorem test_setChOn_FA : callOf (exec (.setChOn 0x01#8) (withRead (.val 0xFA#8) (rdState (.setChOn 0x01#8) []))) =
    some (.write cfg 0xF8#8) := by decide
/-- 95_test_vectors.md P4 step 5. -/
theorem test_setChOn_ack : regOf (exec (.setChOn 0x00#8) (withWrite acked (wrState []))) = some 0xFE#8 := by decide
/-- 95_test_vectors.md P2 step 9. -/
theorem test_setAllOff_F6 : callOf (exec (.setAllOff 0x00#8) (withRead (.val 0xF6#8) (rdState (.setAllOff 0x00#8) []))) =
    some (.write cfg 0xFF#8) := by decide
/-- 95_test_vectors.md V-ERR: a failing read. -/
theorem test_setAllOff_err : responseOf (exec (.setAllOff 0x00#8) (withRead (.err 0x2A) (rdState (.setAllOff 0x00#8) []))) =
    some (.failed (.transportError 0x2A)) := by decide
/-- 95_test_vectors.md V-SET, `idx = 0x5A` ignored. -/
theorem test_setAllOn_FA : callOf (exec (.setAllOn 0x5A#8) (withRead (.val 0xFA#8) (rdState (.setAllOn 0x5A#8) []))) =
    some (.write cfg 0xF0#8) := by decide
/-- 42_set.md section 4: an illegal byte stops before the write. -/
theorem test_setAllOn_7F : callOf (exec (.setAllOn 0x00#8) (withRead (.val 0x7F#8) (rdState (.setAllOn 0x00#8) []))) =
    some (.read cfg) := by decide

/-- A word placed for the fetch is accepted by the next step, from reset (95_test_vectors.md P4 step 1). -/
theorem test_withFetchWord : phaseOf (step (State.reset.withFetchWord 16 0xA00)) = some .rdPend := by decide
/-- 95_test_vectors.md V-ERR, `SET #9,?3`. -/
theorem test_step_illegal_word : responseOf (step (idleState 0xFA#8 [0xE09#12] [])) = some (.failed .invalidChannel) := by decide
/-- 95_test_vectors.md V-ERR, `SET 1,?2`. -/
theorem test_step_illegal_state : responseOf (step (idleState 0xFA#8 [0xC01#12] [])) = some (.failed .invalidState) := by decide
/-- 70_reset_and_hazards.md R131: a late result leaves a read that is awaited outstanding. -/
theorem test_lateRead : phaseOf (step (rdState (.getAll 0x00#8 0b00#2) [.lateRead (.byte 0xF0#8)])) = some .rdPend := by decide
/-- 00_scope.md R5: an error payload of the default width, all ones, is passed on. -/
theorem test_payload_widest : responseOf (step (rdState (.getAll 0x00#8 0b00#2) [.readReturn (.failure 0xFF)])) =
    some (.failed (.transportError 0xFF)) := by decide
/-- 30_encoding.md R64: the source's invalid channel examples. -/
theorem test_soft_channels : softChannelCode (.integer (-1)) = (0#1, 0xFF#8) ∧ softChannelCode (.text "ALL") = (0#1, 0xFF#8) ∧
    softChannelCode (.text "") = (0#1, 0xFF#8) ∧ softChannelCode (.integer 4) = (0#1, 0x04#8) := by decide

/-! ## Hypotheses that are met -/

theorem witness_DecodeOfEncode : (Instr.getCh 0x03#8 0b11#2).wellFormed = true := by decide
theorem witness_EncodeOfDecode : decode 0xFFF#12 = .illegal .invalidState ∧ decode 0x7FF#12 = .ok (.getAll 0xFF#8 0b11#2) := by
  decide
theorem witness_DecoderFollowsOpcodeMap : (∀ row ∈ opcodeTable, row.matches 0x004#12 = false) ∧
    (∃ row ∈ opcodeTable, row.matches 0x003#12 = true) := by decide
theorem witness_IllegalWordsAreAnsweredAtAccept :
    decode 0x004#12 = .illegal .invalidChannel ∧ decode 0xC03#12 = .illegal .invalidState ∧
    (idleState 0xFA#8 [0xC03#12] [.accept]).phase = .idle ∧ (idleState 0xFA#8 [0xC03#12] [.accept]).requests = [0xC03#12] ∧
    (idleState 0xFA#8 [0xC03#12] [.accept]).world = [.accept] := by decide
theorem witness_RequesterCodes : (0 : Int) ≤ 255 ∧ (255 : Int) ≤ 255 ∧ (255 : Int) < 256 ∧ ("ALL" ≠ "all") ∧
    ("On" ≠ "off") ∧ ("On" ≠ "on") := by decide
theorem witness_DecoderMapping : (0x08#8 : Byte).extractLsb' 0 4 = (0xF8#8 : Byte).extractLsb' 0 4 := by decide
theorem witness_EncoderBits_TargetMask_EncoderLaws : validChannel 0#1 0x03#8 = true ∧ validChannel 1#1 0xFF#8 = true ∧
    validChannel 0#1 0x00#8 = true ∧ (0x03#8 : Byte) ≠ 0x00#8 := by decide
theorem witness_GetChFollowsItsRule : (Instr.getCh 0x03#8 0b11#2).wellFormed = true ∧
    (idleState 0xF8#8 [] []).phase = .idle ∧
    (withRead (.val 0xF0#8) (rdState (.getCh 0x03#8 0b11#2) [])).phase = .rdPend ∧
    (withRead (.val 0xF0#8) (rdState (.getCh 0x03#8 0b11#2) [])).rdPort = some (.val 0xF0#8) ∧
    (0xF0#8 : Byte).extractLsb' 4 4 = 0xF#4 ∧ (0xEF#8 : Byte).extractLsb' 4 4 ≠ 0xF#4 ∧
    (withRead (.err 0x2A) (rdState (.getCh 0x03#8 0b11#2) [])).rdPort = some (.err 0x2A) := by decide
theorem witness_GetAllFollowsItsRule : (withRead (.val 0xFF#8) (rdState (.getAll 0xFF#8 0b11#2) [])).phase = .rdPend ∧
    (withRead (.val 0xFF#8) (rdState (.getAll 0xFF#8 0b11#2) [])).rdPort = some (.val 0xFF#8) ∧
    (0xFF#8 : Byte).extractLsb' 4 4 = 0xF#4 := by decide
theorem witness_SetForms_read : (Instr.setChOff 0x03#8).wellFormed = true ∧ (Instr.setChOn 0x03#8).wellFormed = true ∧
    (withRead (.val 0xFF#8) (rdState (.setChOff 0x03#8) [])).rdPort = some (.val 0xFF#8) ∧
    (withRead (.val 0xFF#8) (rdState (.setChOff 0x03#8) [])).phase = .rdPend ∧
    (0xF8#8 : Byte).getLsbD 3 = true ∧ (0xF7#8 : Byte).getLsbD 3 = false := by decide
theorem witness_SetForms_write : (withWrite acked (wrState [])).phase = .wrPend ∧
    (withWrite acked (wrState [])).wrPort = some { result := .ack 1, held := none } ∧
    (withWrite failedWrite (wrState [])).wrPort = some { result := .err 0x17, held := none } ∧
    (withWrite failedWriteHeld (wrState [])).wrPort = some { result := .err 0x17, held := some 0xFB#8 } := by decide
theorem witness_IllegalByteEndsTheOperation :
    (idleState 0xEF#8 [0x003#12] [.accept, .readReturn (.byte 0xEF#8)]).phase = .idle ∧
    (idleState 0xEF#8 [0x003#12] [.accept, .readReturn (.byte 0xEF#8)]).rdPort = none ∧
    decode 0x003#12 = .ok (.getCh 0x03#8 0b00#2) ∧ (0xEF#8 : Byte).extractLsb' 4 4 ≠ 0xF#4 := by decide
theorem witness_TransportErrorIsPassedOn :
    (idleState 0xF3#8 [0x803#12] [.accept, .readReturn (.byte 0xF3#8), .writeReturn failedWrite]).phase = .idle ∧
    (idleState 0xF3#8 [0x803#12] [.accept, .readReturn (.failure 0x2A)]).world = [.accept, .readReturn (.failure 0x2A)] ∧
    (idleState 0xF3#8 [0x803#12] []).rdPort = none ∧ (idleState 0xF3#8 [0x803#12] []).wrPort = none ∧
    decode 0x803#12 = .ok (.setChOff 0x03#8) ∧ isSet (.setChOff 0x03#8) = true ∧ legal 0xF3#8 = true ∧
    0xFF < 2 ^ (idleState 0xF3#8 [0x803#12] []).widths.errW := by decide

theorem sound_wrState (turns : List Turn) : Sound (wrState turns) where
  ports_empty := by exact ⟨rfl, rfl⟩
  latches_valid := fun _ => by exact ⟨rfl, fun _ => rfl⟩
  write_of_set := fun _ => ⟨rfl, by show legal 0xFF#8 = true; decide⟩
  read_outstanding := fun h => by cases h
  write_outstanding := fun _ st h => by
    obtain rfl : RelayState.on = st := by simpa [wrState, stateOf] using h
    show some (Call.write cfg 0xFE#8) = some (Call.write cfg (newByte 0xFF#8 0#1 0x00#8 .on))
    decide
  read_first := by rfl
  config_presented := by
    show ∀ c ∈ [Call.write cfg 0xFE#8, .read cfg], c.config = cfg
    decide
  writes_legal := fun c v h => by
    simp only [wrState, List.mem_cons, Call.write.injEq, reduceCtorEq, List.not_mem_nil, or_false] at h
    obtain ⟨-, rfl⟩ := h
    decide
  abandoned_issued := fun _ h => by cases h
  payloads_fit := fun _ h => by cases h

theorem witness_FailedWriteLosesTheRegister : Sound (wrState [.writeReturn failedWriteHeld]) ∧
    (wrState [.writeReturn failedWriteHeld]).phase = .wrPend ∧
    (wrState [.writeReturn failedWriteHeld]).world = [.writeReturn { result := .err 0x17, held := some 0xFB#8 }] ∧
    Sound (wrState [.writeReturn failedWrite]) ∧ (wrState [.writeReturn failedWrite]).phase = .wrPend ∧
    (rdState (.setAllOn 0x00#8) [.readReturn (.failure 0)]).world = [.readReturn (.failure 0)] ∧
    0x17 < 2 ^ (wrState []).widths.errW :=
  ⟨sound_wrState _, rfl, rfl, sound_wrState _, rfl, rfl, by decide⟩
theorem witness_FailedWrite_read_steps :
    phaseOf (step (rdState (.setAllOn 0x00#8) [.readReturn (.failure 0)])) = some .idle := by decide
theorem witness_SilentTransportHangsTheBlock :
    (let s := { wrState [] with transport := .silent }; s.phase ≠ .idle ∧ s.world = [] ∧ s.transport = .silent) ∧
    (let s := { rdState (.getAll 0x00#8 0b00#2) [] with transport := .silent }
     s.phase ≠ .idle ∧ s.world = [] ∧ s.transport = .silent) := by decide
theorem witness_NoResultNoMove : (rdState (.getCh 0x03#8 0b00#2) []).phase = .rdPend ∧
    (rdState (.getCh 0x03#8 0b00#2) []).rdPort = none ∧ (wrState []).phase = .wrPend ∧ (wrState []).wrPort = none ∧
    isSet (.setChOn 0x00#8) = true := by decide
theorem witness_GetNeverWaitsForAWrite : isSet (.getAll 0x00#8 0b00#2) = false ∧ (wrState []).phase = .wrPend := by decide
theorem witness_StepRunsTheDecodedInstruction :
    (idleState 0xFF#8 [0xA00#12] [.accept]).phase = .idle ∧ decode 0xA00#12 = .ok (.setChOn 0x00#8) ∧
    (rdState (.setChOn 0x00#8) [.readReturn (.byte 0xFF#8)]).phase = .rdPend ∧
    decode (latchedWord (rdState (.setChOn 0x00#8) [.readReturn (.byte 0xFF#8)])) = .ok (.setChOn 0x00#8) ∧
    (wrState [.writeReturn acked]).phase = .wrPend ∧
    decode (latchedWord (wrState [.writeReturn acked])) = .ok (.setChOn 0x00#8) ∧
    (Instr.setChOn 0x00#8).wellFormed = true := by decide
theorem witness_IdealDeviceAnswers : decode (latchedWord (wrState [.writeIdeal])) = .ok (.setChOn 0x00#8) ∧
    (wrState [.writeIdeal]).phase = .wrPend ∧ (wrState [.writeIdeal]).world = [.writeIdeal] ∧
    stateOf (wrState [.writeIdeal]).reqSt = some .on ∧ (wrState [.writeIdeal]).reqOp = 1#1 ∧
    0 < (wrState [.writeIdeal]).widths.ackW ∧
    decode (latchedWord (rdState (.getAll 0xFF#8 0b11#2) [.readIdeal])) = .ok (.getAll 0xFF#8 0b11#2) ∧
    (rdState (.getAll 0xFF#8 0b11#2) [.readIdeal]).phase = .rdPend := by decide
theorem witness_NonByteIsAnInvalidRegisterByte :
    (rdState (.getAll 0x00#8 0b00#2) [.readReturn .notAByte]).phase = .rdPend ∧
    (rdState (.getAll 0x00#8 0b00#2) [.readReturn .notAByte]).rdPort = none ∧
    decode (latchedWord (rdState (.getAll 0x00#8 0b00#2) [.readReturn .notAByte])) = .ok (.getAll 0x00#8 0b00#2) := by decide
theorem witness_RequestWaitsDuringAnOperation : (wrState [.present 0x000#12]).world = [.present 0x000#12] ∧
    (wrState [.accept]).phase ≠ .idle ∧ (wrState [.accept]).world = [.accept] := by decide
theorem witness_AnotherAgentWritesAtAnyInstant : (wrState [.otherWrite 0x00#8]).world = [.otherWrite 0x00#8] := by decide
theorem witness_BlockResetAbandonsTheOperation : (wrState [.blockReset]).world = [.blockReset] ∧
    (rdState (.getAll 0x00#8 0b00#2) [.blockReset]).phase ≠ .wrPend ∧
    (idleState 0xFF#8 [] [.readReturn (.byte 0xFF#8)]).phase ≠ .rdPend ∧
    (idleState 0xFF#8 [] [.writeReturn acked]).phase ≠ .wrPend ∧
    (wrState [.lateRead (.byte 0xFF#8)]).world = [.lateRead (.byte 0xFF#8)] ∧
    (wrState [.lateWrite (.ack 1)]).world = [.lateWrite (.ack 1)] := by decide
theorem sound_rdState (turns : List Turn) : Sound (rdState (.getAll 0x00#8 0b00#2) turns) where
  ports_empty := by exact ⟨rfl, rfl⟩
  latches_valid := fun _ => by exact ⟨rfl, fun h => by cases h⟩
  write_of_set := fun h => by cases h
  read_outstanding := fun _ => by rfl
  write_outstanding := fun h => by cases h
  read_first := by rfl
  config_presented := by
    show ∀ c ∈ [Call.read cfg], c.config = cfg
    decide
  writes_legal := fun c v h => by simp [rdState] at h
  abandoned_issued := fun _ h => by cases h
  payloads_fit := fun _ h => by cases h
theorem witness_LateResultLeavesTheNewOperation :
    (let s := { rdState (.getAll 0x00#8 0b00#2) [.blockReset, .accept, .lateRead (.byte 0xF0#8), .readReturn (.byte 0xFF#8)] with
       requests := [0xA00#12] }
     Sound s ∧ s.phase = .rdPend ∧ s.abandoned = [] ∧ decode 0xA00#12 = .ok (.setChOn 0x00#8)) ∧
    (let s := { wrState [.blockReset, .accept, .readReturn (.byte 0xFF#8), .lateWrite (.err 0x17), .writeReturn acked] with
       requests := [0xA00#12] }
     Sound s ∧ s.phase = .wrPend ∧ s.abandoned = [] ∧ isSet (.setChOn 0x00#8) = true ∧
       stateOf (Instr.setChOn 0x00#8).request.st = some .on ∧ legal 0xFF#8 = true) :=
  ⟨⟨{ sound_rdState [] with }, rfl, rfl, by decide⟩, { sound_wrState [] with }, rfl, rfl, rfl, rfl, by decide⟩
theorem witness_StepKeepsSound : Sound (wrState [.writeReturn acked]) ∧
    regOf (step (wrState [.writeReturn acked])) = some 0xFE#8 := ⟨sound_wrState _, by decide⟩
theorem witness_SoundStatesNeverStop : Sound (wrState []) := sound_wrState _
theorem witness_ConfigurationIsConstant : phaseOf (step (wrState [.writeIdeal])) = some .idle := by decide
theorem witness_OnlyWritesChangeTheRegister : regOf (step (wrState [.otherWrite 0x00#8])) = some 0x00#8 ∧
    regOf (step (wrState [.writeIdeal])) = some 0xFE#8 ∧ (wrState []).reg = 0xFF#8 := by decide
theorem witness_NothingIsKeptBetweenOperations :
    SameButUnread (idleState 0xFF#8 [0xA00#12] [])
      { idleState 0xFF#8 [0xA00#12] [] with reqOp := 1#1, reqIdx := 0x09#8, rdByte := 0x55#8 } where
  phase := by rfl
  latches := fun h => absurd rfl h
  rdByte := fun h => by cases h
  device := by exact ⟨rfl, rfl, rfl⟩
  ports := by exact ⟨rfl, rfl⟩
  interface := by exact ⟨rfl, rfl, rfl, rfl⟩
  environment := by exact ⟨rfl, rfl, rfl⟩
theorem witness_NothingIsKept_runs : phaseOf (runFor 3 (idleState 0xFF#8 [0xA00#12] [])) = some .idle := by decide
theorem witness_EventsRefineTheProcedures :
    (let before := [Turn.otherWrite 0xF0#8, .wait]
     let between := [Turn.otherWrite 0xFD#8, .present 0x003#12]
     let s := idleState 0xFF#8 [0xA00#12] (.accept :: before ++ .readReturn (.byte 0xFF#8) :: between ++ [.writeReturn acked])
     s.phase = .idle ∧ s.rdPort = none ∧ s.wrPort = none ∧ s.requests = [0xA00#12] ∧
     (∀ t ∈ before, t.outside = true) ∧ (∀ t ∈ between, t.outside = true)) := by decide
theorem witness_UnderTheIdealDevice : (Instr.getCh 0x03#8 0b00#2).wellFormed = true ∧ isSet (.getCh 0x03#8 0b00#2) = false ∧
    (idleState 0xF0#8 [encode (.getCh 0x03#8 0b00#2)] []).phase = .idle ∧ legal (idleState 0xF0#8 [] []).reg = true ∧
    isSet (.setAllOff 0xFF#8) = true ∧ stateOf (Instr.setAllOff 0xFF#8).request.st = some .off ∧
    (idleState 0xF0#8 [encode (.setAllOff 0xFF#8)] []).rdPort = none ∧
    (idleState 0xF0#8 [encode (.setAllOff 0xFF#8)] []).wrPort = none := by decide
theorem witness_Undisturbed : Undisturbed (idleState 0xF0#8 [0x003#12] []) := ⟨rfl, rfl⟩
theorem witness_SingleChannelAndVectorAgree :
    (withRead (.val 0xF8#8) (rdState (.getAll 0x00#8 0b00#2) [])).phase = .rdPend ∧ legal 0xF8#8 = true := by decide
theorem witness_UpdateInTheWindowIsLost : Sound (wrState [.otherWrite 0xFD#8, .writeIdeal]) ∧
    (wrState [.otherWrite 0xFD#8, .writeIdeal]).phase = .wrPend ∧
    stateOf (wrState [.otherWrite 0xFD#8, .writeIdeal]).reqSt = some .on := ⟨sound_wrState _, rfl, rfl⟩
theorem witness_IllegalRegisterLocksTheBlockOut : Undisturbed (idleState 0xEF#8 [0xB00#12] []) ∧
    (idleState 0xEF#8 [0xB00#12] []).phase = .idle ∧ legal (idleState 0xEF#8 [0xB00#12] []).reg = false ∧
    decode 0xB00#12 = .ok (.setAllOn 0x00#8) := ⟨⟨rfl, rfl⟩, by decide⟩

end Sys2Proof.Tests
end

section
/-! The register behind the transport (20_memory.md): what a listed turn makes of a step, what the two transport results
make of an operation, and the statements of the family. -/

namespace Sys2Proof.Machine

open Host

/-! ## A step with a listed turn -/

/-- The first listed turn is the one taken, on the state with that turn used up. -/
theorem fetch_listed {s : State} {turn : Turn} {turns : List Turn} (hw : s.world = turn :: turns) :
    fetch s = takeTurn turn { s with world := turns } := by
  simp only [fetch, hw]

theorem step_of_fetch_run {s t : State} {i : Instr} (h : fetch s = .run i t) : step s = exec i t := by
  simp only [step, h]

theorem step_of_fetch_done {s : State} {o : Outcome State Fault Refusal} (h : fetch s = .done o) : step s = o := by
  simp only [step, h]

/-- An operation in progress goes on with the instruction its latches hold (10_state.md R25). -/
theorem resume_of_decode {s : State} {i : Instr} (hd : decode (latchedWord s) = .ok i) : resume s = .run i s := by
  simp only [resume, hd]

/-- A listed turn that answers the read awaited runs the latched instruction with the answer at the read port. -/
theorem step_of_readTurn {s : State} {turn : Turn} {turns : List Turn} {i : Instr} {res : ReadResult}
    (hp : s.phase = .rdPend) (hw : s.world = turn :: turns) (hd : decode (latchedWord s) = .ok i)
    (ht : takeTurn turn { s with world := turns } = readTurn res { s with world := turns }) :
    step s = exec i { s with rdPort := some res, world := turns } := by
  apply step_of_fetch_run
  rw [fetch_listed hw, ht, readTurn, if_pos hp]
  exact resume_of_decode hd

/-- A listed turn that answers the write awaited runs the latched instruction with the answer, as the write port carries
it, at that port. -/
theorem step_of_writeTurn {s : State} {turn : Turn} {turns : List Turn} {i : Instr} {ret : WriteReturn}
    (hp : s.phase = .wrPend) (hw : s.world = turn :: turns) (hd : decode (latchedWord s) = .ok i)
    (ht : takeTurn turn { s with world := turns } = writeTurn ret { s with world := turns }) :
    step s = exec i { s with
      wrPort := some { ret with result := adaptWrite s.widths ret.result }, world := turns } := by
  apply step_of_fetch_run
  rw [fetch_listed hw, ht, writeTurn, if_pos hp]
  exact resume_of_decode hd

/-! ## A transport result and the device register -/

/-- READ_RETURN leaves the device register alone if what follows a legal byte does (20_memory.md R35). -/
theorem readReturn_reg (onLegal : Byte → State → State) (s : State) (hk : ∀ b t, (onLegal b t).reg = t.reg) :
    (readReturn onLegal s).reg = s.reg := by
  rcases readReturn_cases onLegal s with ⟨-, h⟩ | ⟨e, -, h⟩ | ⟨b, -, -, h⟩ | ⟨b, -, -, h⟩
  · rw [h]
  · rw [h, raise_reg]
  · rw [h, hk]
  · rw [h, raise_reg]

/-- No instruction changes the device register when its read comes back: a GET responds, a SET only issues its write. -/
theorem exec_rdPend_reg {i : Instr} {s t : State} (h : exec i s = .next t) (hp : s.phase = .rdPend) :
    t.reg = s.reg := by
  rcases bit_eq_zero_or_one i.request.op with h0 | h1
  · obtain ⟨answer, ha⟩ := exec_get i h0
    obtain rfl : _ = t := by simpa [ha, getOperation, hp] using h
    exact readReturn_reg _ s fun b u => respond_reg _ u
  · obtain ⟨st, -, ha⟩ := exec_set i h1
    obtain rfl : _ = t := by simpa [ha, setOperation, hp] using h
    exact readReturn_reg _ s fun b u => issueWrite_reg _ u

/-- An acknowledged write leaves the byte sent in the device register and ends the operation with OK, the byte sent and
the acknowledgment (10_state.md R25, R26). -/
theorem writeReturn_acked (sent : Byte) (a : AckPayload) {s : State}
    (hw : s.wrPort = some { result := .ack a, held := none }) :
    writeReturn sent s = respond (.okSet sent a) { s with wrPort := none, reg := sent } := by
  simp only [writeReturn, hw, answerWrite, deviceAfterWrite]

/-- In WR_PEND an acknowledged SET stores the new byte made from `RD_BYTE` and answers it with the acknowledgment
(10_state.md R16, R25, R26). -/
theorem exec_set_acked {i : Instr} {s : State} {st : RelayState} {a : AckPayload} (hop : i.request.op = 1#1)
    (hst : stateOf i.request.st = some st) (hp : s.phase = .wrPend)
    (hw : s.wrPort = some { result := .ack a, held := none }) :
    exec i s = .next (respond (.okSet (newByte s.rdByte i.request.all i.request.idx st) a)
      { s with wrPort := none, reg := newByte s.rdByte i.request.all i.request.idx st }) := by
  obtain ⟨st', hst', ha⟩ := exec_set i hop
  obtain rfl : st' = st := Option.some.inj (hst'.symm.trans hst)
  simp only [ha, setOperation, hp, writeReturn_acked _ a hw]

/-- A write port of at least one bit carries the ideal device's acknowledgment unchanged (20_memory.md R35). -/
theorem adaptWrite_idealAck {w : Widths} (h : 0 < w.ackW) :
    adaptWrite w (.ack Config.idealAck) = .ack Config.idealAck :=
  congrArg WriteResult.ack (onWires_eq (Nat.one_lt_two_pow h.ne'))

/-! ## The statements -/

/-- Settles O27, from what the latched instruction does with the ideal device's answer at its port. -/
theorem idealDeviceAnswers : Obligations.IdealDeviceAnswers := by
  intro s i turns hd
  constructor
  · intro hp hw
    have hstep : step s = exec i { s with rdPort := some (.val s.reg), world := turns } :=
      step_of_readTurn hp hw hd rfl
    refine ⟨hstep, fun t ht => ?_⟩
    calc t.reg = State.reg _ := exec_rdPend_reg (hstep.symm.trans ht) hp
      _ = s.reg := rfl
  · intro hp hw st hst hop hack
    have hreq := latched_request s i hd
    have hport : adaptWrite s.widths idealWrite.result = .ack Config.idealAck := adaptWrite_idealAck hack
    have hstep := step_of_writeTurn (ret := idealWrite) hp hw hd rfl
    rw [hport] at hstep
    refine ⟨_, hstep.trans (exec_set_acked (st := st) ?_ ?_ hp rfl), ?_, ?_⟩
    · rw [hreq, hop]
    · rw [hreq, hst]
    · rw [respond_reg, hreq]
    · rw [respond_responses, hreq]
      rfl

/-- Settles O30: the turn is taken whatever the phase, and it only stores its byte. -/
theorem anotherAgentWritesAtAnyInstant : Obligations.AnotherAgentWritesAtAnyInstant := by
  intro s v turns hw
  exact step_of_fetch_done (fetch_listed hw)

end Sys2Proof.Machine
end

section
/-! The request word and the response as driven (30_encoding.md): which words are illegal and how many there are, what
ACCEPT makes of one, the requester's codes, and the statements of the family. -/

namespace Sys2Proof

/-! ## Illegal requests -/

/-- The channel validator fails exactly an ordinal of 4 or more (30_encoding.md R52, R57). -/
theorem validChannel_eq_false_iff (all : BitVec 1) (idx : Byte) :
    validChannel all idx = false ↔ all = 0#1 ∧ 4 ≤ idx.toNat := by
  rcases bit_eq_zero_or_one all with rfl | rfl
  · simp [validChannel]
    omega
  · simp [validChannel]

/-- The state validator fails exactly the codes with the high bit set (30_encoding.md R53, R57). -/
theorem validState_eq_false_iff (st : BitVec 2) : validState st = false ↔ st.getLsbD 1 = true := by
  revert st
  decide

/-- The first condition of 30_encoding.md R57. -/
theorem decodeRequest_invalidChannel_iff (r : Request) :
    decodeRequest r = .illegal .invalidChannel ↔ validChannel r.all r.idx = false := by
  constructor
  · intro h
    rcases decodeRequest_illegal r _ h with ⟨-, hc⟩ | ⟨he, -⟩
    · exact hc
    · cases he
  · intro hc
    rw [decodeRequest, (chan_eq_none _ _).mpr hc]

/-- The second condition of 30_encoding.md R57, which the first comes before (60_exceptions.md R117). -/
theorem decodeRequest_invalidState_iff (r : Request) :
    decodeRequest r = .illegal .invalidState ↔
      validChannel r.all r.idx = true ∧ r.op = 1#1 ∧ validState r.st = false := by
  constructor
  · intro h
    rcases decodeRequest_illegal r _ h with ⟨he, -⟩ | ⟨-, hbad⟩
    · cases he
    · exact hbad
  · rintro ⟨hc, hop, hs⟩
    rcases h : decodeRequest r with i | e
    · have := (decodeRequest_ok_valid r i h).2 hop
      simp [hs] at this
    · rcases decodeRequest_illegal r e h with ⟨-, hc'⟩ | ⟨rfl, -⟩
      · simp [hc] at hc'
      · rfl

theorem decode_invalidChannel_iff (w : ReqWord) :
    decode w = .illegal .invalidChannel ↔ (Request.ofWord w).all = 0#1 ∧ 4 ≤ (Request.ofWord w).idx.toNat := by
  rw [decode, decodeRequest_invalidChannel_iff, validChannel_eq_false_iff]

theorem decode_invalidState_iff (w : ReqWord) :
    decode w = .illegal .invalidState ↔
      ¬ ((Request.ofWord w).all = 0#1 ∧ 4 ≤ (Request.ofWord w).idx.toNat) ∧
        (Request.ofWord w).op = 1#1 ∧ (Request.ofWord w).st.getLsbD 1 = true := by
  rw [decode, decodeRequest_invalidState_iff, ← validState_eq_false_iff, ← validChannel_eq_false_iff,
    Bool.not_eq_false]

/-! ## How many words are illegal

The 4096 words are 16 blocks of 256: a block fixes `op`, `st` and `all`, and `idx` runs through it. -/

/-- Counting by blocks of `k`. -/
theorem count_mul_eq_sum_blocks (p : Nat → Prop) [DecidablePred p] (m k : Nat) :
    Nat.count p (m * k) = ∑ b ∈ Finset.range m, Nat.count (fun l => p (b * k + l)) k := by
  induction m with
  | zero => simp
  | succ m ih => rw [Nat.succ_mul, Nat.count_add, ih, Finset.sum_range_succ]

/-- Two predicates that agree below `n` have the same count there. -/
theorem count_congr_below {p q : Nat → Prop} [DecidablePred p] [DecidablePred q] {n : Nat}
    (h : ∀ l < n, (p l ↔ q l)) : Nat.count p n = Nat.count q n :=
  le_antisymm (Nat.count_mono_left fun l hl => (h l hl).mp) (Nat.count_mono_left fun l hl => (h l hl).mpr)

theorem count_from (a k : Nat) : Nat.count (fun l => a ≤ l) (a + k) = k := by
  rw [Nat.count_add, Nat.count_of_forall_not (by omega), Nat.count_of_forall (by omega), Nat.zero_add]

theorem count_below (a k : Nat) : Nat.count (fun l => ¬ a ≤ l) (a + k) = a := by
  rw [Nat.count_add, Nat.count_of_forall (by omega), Nat.count_of_forall_not (by omega), Nat.add_zero]

/-- The fields of word `l` of block `b` (30_encoding.md R50). -/
theorem ofWord_block (b l : Nat) (hl : l < 256) :
    Request.ofWord (BitVec.ofNat 12 (b * 256 + l)) =
      { op := BitVec.ofNat 1 (b / 8), st := BitVec.ofNat 2 (b / 2), all := BitVec.ofNat 1 b,
        idx := BitVec.ofNat 8 l } := by
  simp only [Request.ofWord, Request.mk.injEq]
  refine ⟨?_, ?_, ?_, ?_⟩ <;>
    · apply BitVec.eq_of_toNat_eq
      simp only [BitVec.extractLsb'_toNat, BitVec.toNat_ofNat, Nat.shiftRight_eq_div_pow]
      omega

/-- In a block with `all = 0` the 252 words from `idx = 4` on have an invalid channel, in one with `all = 1` none. -/
theorem count_invalidChannel_block (b : Nat) :
    Nat.count (fun l => decode (BitVec.ofNat 12 (b * 256 + l)) = .illegal .invalidChannel) 256 =
      if BitVec.ofNat 1 b = 0#1 then 252 else 0 := by
  have hblock : ∀ l < 256, (decode (BitVec.ofNat 12 (b * 256 + l)) = .illegal .invalidChannel ↔
      BitVec.ofNat 1 b = 0#1 ∧ 4 ≤ l) := by
    intro l hl
    simp only [decode_invalidChannel_iff, ofWord_block b l hl, BitVec.toNat_ofNat, Nat.reducePow,
      Nat.mod_eq_of_lt hl]
  rw [count_congr_below hblock]
  by_cases hall : BitVec.ofNat 1 b = 0#1
  · simp only [hall, true_and, if_true]
    exact count_from 4 252
  · simp only [hall, false_and, if_false, Nat.count_false]

/-- In a block with `op = 1` and `st[1] = 1` every word with a valid channel has an invalid state: 4 words where
`all = 0`, all 256 where `all = 1`. -/
theorem count_invalidState_block (b : Nat) :
    Nat.count (fun l => decode (BitVec.ofNat 12 (b * 256 + l)) = .illegal .invalidState) 256 =
      if BitVec.ofNat 1 (b / 8) = 1#1 ∧ (BitVec.ofNat 2 (b / 2)).getLsbD 1 = true then
        if BitVec.ofNat 1 b = 0#1 then 4 else 256
      else 0 := by
  have hblock : ∀ l < 256, (decode (BitVec.ofNat 12 (b * 256 + l)) = .illegal .invalidState ↔
      ¬ (BitVec.ofNat 1 b = 0#1 ∧ 4 ≤ l) ∧
        BitVec.ofNat 1 (b / 8) = 1#1 ∧ (BitVec.ofNat 2 (b / 2)).getLsbD 1 = true) := by
    intro l hl
    simp only [decode_invalidState_iff, ofWord_block b l hl, BitVec.toNat_ofNat, Nat.reducePow,
      Nat.mod_eq_of_lt hl]
  rw [count_congr_below hblock]
  by_cases hset : BitVec.ofNat 1 (b / 8) = 1#1 ∧ (BitVec.ofNat 2 (b / 2)).getLsbD 1 = true
  · by_cases hall : BitVec.ofNat 1 b = 0#1
    · simp only [hset, hall, true_and, and_true, if_true]
      exact count_below 4 252
    · simp only [hset, hall, false_and, not_false_eq_true, and_true, if_true, if_false, Nat.count_true]
  · simp only [hset, and_false, if_false, Nat.count_false]

/-- Eight blocks have `all = 0` (30_encoding.md R57). -/
theorem countP_invalidChannel :
    (List.range 4096).countP (fun n => decode (BitVec.ofNat 12 n) = .illegal .invalidChannel) = 2016 := by
  rw [← Nat.count, show 4096 = 16 * 256 from rfl, count_mul_eq_sum_blocks]
  simp only [count_invalidChannel_block]
  decide

/-- Four blocks have `op = 1` and `st[1] = 1`, two of them with `all = 0` (30_encoding.md R57). -/
theorem countP_invalidState :
    (List.range 4096).countP (fun n => decode (BitVec.ofNat 12 n) = .illegal .invalidState) = 520 := by
  rw [← Nat.count, show 4096 = 16 * 256 from rfl, count_mul_eq_sum_blocks]
  simp only [count_invalidState_block]
  decide

@[simp] theorem Decoded.isSome_toOption_ok (i : Instr) : (Decoded.ok i).toOption.isSome = true := rfl

@[simp] theorem Decoded.isSome_toOption_illegal (e : DecodeError) :
    (Decoded.illegal e).toOption.isSome = false := rfl

/-- Every word is legal or gives one of the two errors, and only one of the three holds. -/
theorem countP_legal_add_illegal (ws : List Nat) :
    ws.countP (fun n => ((decode (BitVec.ofNat 12 n)).toOption).isSome) +
      ws.countP (fun n => decode (BitVec.ofNat 12 n) = .illegal .invalidChannel) +
      ws.countP (fun n => decode (BitVec.ofNat 12 n) = .illegal .invalidState) = ws.length := by
  induction ws with
  | nil => rfl
  | cons n ws ih =>
    simp only [List.countP_cons, List.length_cons]
    rcases decode (BitVec.ofNat 12 n) with i | (_ | _) <;>
      · simp
        omega

/-- The words that give neither error are the legal ones (30_encoding.md R57). -/
theorem countP_legal :
    (List.range 4096).countP (fun n => ((decode (BitVec.ofNat 12 n)).toOption).isSome) = 1560 := by
  have hsum := countP_legal_add_illegal (List.range 4096)
  rw [countP_invalidChannel, countP_invalidState, List.length_range] at hsum
  simpa only [Nat.reduceEqDiff] using hsum

end Sys2Proof

namespace Sys2Proof.Machine

/-! ## ACCEPT of an illegal word -/

/-- An error raised in IDLE adds its response and nothing else (60_exceptions.md R115). -/
theorem raise_of_idle (e : Error) {s : State} (hp : s.phase = .idle) :
    raise e s = { s with responses := .failed e :: s.responses } := by
  rw [raise, respond, ← hp]

theorem accept_invalidChannel {r : Request} {s : State} (h : decodeRequest r = .illegal .invalidChannel) :
    accept r s = raise .invalidChannel s := by
  have hc := (decodeRequest_invalidChannel_iff r).mp h
  simp [accept, hc]

theorem accept_invalidState {r : Request} {s : State} (h : decodeRequest r = .illegal .invalidState) :
    accept r s = raise .invalidState s := by
  obtain ⟨hc, hop, hs⟩ := (decodeRequest_invalidState_iff r).mp h
  simp [accept, hc, hop, hs]

/-- In IDLE the block's turn takes the first waiting word; an illegal one runs no instruction, but the event ACCEPT
itself (10_state.md R25, 30_encoding.md R57). -/
theorem step_accept_illegal {s : State} {w : ReqWord} {rest : List ReqWord} {turns : List Turn} {e : DecodeError}
    (hp : s.phase = .idle) (hr : s.requests = w :: rest) (hw : s.world = .accept :: turns)
    (hd : decode w = .illegal e) :
    step s = .next (accept (Request.ofWord w) { s with requests := rest, world := turns }) := by
  apply step_of_fetch_done
  rw [fetch_listed hw, takeTurn, acceptTurn]
  simp only [hp, hr, hd]

/-! ## The requester's codes -/

/-- An integer that fits `idx` is passed on in it (30_encoding.md R64). -/
theorem softChannelCode_integer_listed {n : Int} (h0 : 0 ≤ n) (h255 : n ≤ 255) :
    softChannelCode (.integer n) = (0#1, BitVec.ofNat 8 n.toNat) := by
  rw [softChannelCode, if_pos ⟨h0, h255⟩]

theorem softChannelCode_integer_unlisted {n : Int} (h : n < 0 ∨ 255 < n) :
    softChannelCode (.integer n) = (0#1, 0xFF#8) := by
  rw [softChannelCode, if_neg (by omega)]

theorem softChannelCode_text_unlisted {t : String} (h : t ≠ "all") : softChannelCode (.text t) = (0#1, 0xFF#8) := by
  rw [softChannelCode, if_neg h]

theorem softStateCode_text_unlisted {t : String} (hoff : t ≠ "off") (hon : t ≠ "on") :
    softStateCode (.text t) = 0b11#2 := by
  rw [softStateCode, if_neg hoff, if_neg hon]

/-- An integer of 0 to 255 is the value of the 8-bit field it is coded in. -/
theorem toNat_ofNat_of_byte_range {n : Int} (h0 : 0 ≤ n) (h255 : n ≤ 255) :
    ((BitVec.ofNat 8 n.toNat).toNat : Int) = n := by
  rw [BitVec.toNat_ofNat]
  omega

/-! ## The response as driven -/

/-- A relay state as driven in the low bit of `rdata`: 1 is ON (30_encoding.md R59). -/
theorem rdataBit_zeroExtend (v : RelayState) : (rdataBit v).zeroExtend 4 = if v = .on then 1#4 else 0#4 := by
  cases v <;> rfl

theorem rdataBit_getLsbD_zero (v : RelayState) : (rdataBit v).getLsbD 0 = decide (v = .on) := by
  cases v <;> rfl

theorem getLsbD_append_four_bits (b3 b2 b1 b0 : BitVec 1) :
    (b3 ++ b2 ++ b1 ++ b0).getLsbD 0 = b0.getLsbD 0 ∧ (b3 ++ b2 ++ b1 ++ b0).getLsbD 1 = b1.getLsbD 0 ∧
    (b3 ++ b2 ++ b1 ++ b0).getLsbD 2 = b2.getLsbD 0 ∧ (b3 ++ b2 ++ b1 ++ b0).getLsbD 3 = b3.getLsbD 0 := by
  simp only [BitVec.getLsbD_append]
  simp

/-- Bit `i` of `rdata` is the state of channel `i`, 1 for ON (30_encoding.md R59). -/
theorem rdataOf_getLsbD (v : ChannelStateVector) (i : Fin 4) :
    (rdataOf v).getLsbD i.val = decide (v.get i = .on) := by
  rw [← rdataBit_getLsbD_zero]
  obtain ⟨h0, h1, h2, h3⟩ :=
    getLsbD_append_four_bits (rdataBit v[3]) (rdataBit v[2]) (rdataBit v[1]) (rdataBit v[0])
  fin_cases i
  · exact h0
  · exact h1
  · exact h2
  · exact h3

/-- Status codes 5 to 7 are never produced (30_encoding.md R58). -/
theorem statusOf_le_four (r : Response) : (statusOf r).toNat ≤ 4 := by
  cases r with
  | failed e => cases e <;> simp [statusOf, statusOfError]
  | okGetOne v => simp [statusOf]
  | okGetAll v => simp [statusOf]
  | okSet wbyte ack => simp [statusOf]

theorem fieldsOf_status (r : Response) : (fieldsOf r).status = statusOf r := by
  cases r <;> rfl

/-! ## The statements -/

/-- Settles O4: the two conditions are the validators', the counts go block by block, and the event ACCEPT raises the
error of the validator that fails. -/
theorem illegalWordsAreAnsweredAtAccept : Obligations.IllegalWordsAreAnsweredAtAccept := by
  refine ⟨decode_invalidChannel_iff, decode_invalidState_iff, countP_invalidChannel, countP_invalidState,
    countP_legal, ?_⟩
  intro s w rest turns hp hr hw
  have hidle : State.phase { s with requests := rest, world := turns } = .idle := hp
  refine ⟨fun hd => ?_, fun hd => ?_⟩
  · rw [step_accept_illegal hp hr hw hd, accept_invalidChannel hd, raise_of_idle _ hidle]
  · rw [step_accept_illegal hp hr hw hd, accept_invalidState hd, raise_of_idle _ hidle]

/-- Settles O6, row by row of 30_encoding.md R64. -/
theorem requesterCodes : Obligations.RequesterCodes := by
  refine ⟨fun n h0 h255 => ?_, rfl, rfl, fun n => softChannelCode_integer_unlisted,
    fun t => softChannelCode_text_unlisted, rfl, rfl, fun t => softStateCode_text_unlisted, rfl⟩
  rw [softChannelCode_integer_listed h0 h255]
  exact ⟨rfl, toNat_ofNat_of_byte_range h0 h255⟩

/-- Settles O13, response by response; the bits of `rdata` are `rdataOf_getLsbD`. -/
theorem responseFieldsDriven : Obligations.ResponseFieldsDriven := by
  refine ⟨fun v => ?_, fun v => ⟨rfl, rfl, rfl, rfl, rdataOf_getLsbD v⟩, fun b a => rfl, rfl, rfl, rfl, fun e => rfl,
    fun r => ?_⟩
  · rw [fieldsOf, rdataBit_zeroExtend]
    rfl
  · rw [fieldsOf_status]
    exact statusOf_le_four r

end Sys2Proof.Machine
end

section
/-! The GET forms (41_get.md): what ACCEPT and READ_RETURN make of any well-formed form, the vector decoded from one byte,
and the statements of the family. -/

namespace Sys2Proof

/-- An ordinal is a channel's: 0 to 3 (30_encoding.md R55). -/
theorem isOrdinal_iff (idx : Byte) : isOrdinal idx = true ↔ idx.toNat < 4 := by
  rw [isOrdinal, beq_iff_eq, ← BitVec.toNat_inj, BitVec.extractLsb'_toNat, Nat.shiftRight_eq_div_pow]
  have := idx.isLt
  simp only [BitVec.toNat_ofNat]
  omega

theorem validChannel_of_isOrdinal (all : BitVec 1) {idx : Byte} (h : isOrdinal idx = true) :
    validChannel all idx = true := by
  have hlt : idx.toNat < 4 := (isOrdinal_iff idx).mp h
  rw [validChannel, decide_eq_true (Nat.le_of_lt_succ hlt), Bool.or_true]

/-- The request of a well-formed instruction passes the validators ACCEPT runs (10_state.md R25). -/
theorem Instr.request_valid_of_wellFormed {i : Instr} (h : i.wellFormed = true) :
    validChannel i.request.all i.request.idx = true ∧ (i.request.op = 1#1 → validState i.request.st = true) := by
  cases i with
  | getCh idx st => exact ⟨validChannel_of_isOrdinal _ h, fun hop => absurd hop (by simp [Instr.request])⟩
  | getAll idx st => exact ⟨rfl, fun hop => absurd hop (by simp [Instr.request])⟩
  | setChOff idx => exact ⟨validChannel_of_isOrdinal _ h, fun _ => rfl⟩
  | setChOn idx => exact ⟨validChannel_of_isOrdinal _ h, fun _ => rfl⟩
  | setAllOff idx => exact ⟨rfl, fun _ => rfl⟩
  | setAllOn idx => exact ⟨rfl, fun _ => rfl⟩

/-- The word of a well-formed instruction has its row's pattern under its row's mask (30_encoding.md R55). -/
theorem encode_and_mask {i : Instr} (h : i.wellFormed = true) : encode i &&& i.row.mask = i.row.pattern := by
  have hrow : i.row.matches (encode i) = true := by
    cases i with
    | getCh idx st => exact Laws.EncodingMatchesRow.getCh idx st h
    | getAll idx st => exact Laws.EncodingMatchesRow.getAll idx st h
    | setChOff idx => exact Laws.EncodingMatchesRow.setChOff idx h
    | setChOn idx => exact Laws.EncodingMatchesRow.setChOn idx h
    | setAllOff idx => exact Laws.EncodingMatchesRow.setAllOff idx h
    | setAllOn idx => exact Laws.EncodingMatchesRow.setAllOn idx h
  exact eq_of_beq hrow

end Sys2Proof

namespace Sys2Proof.Machine

/-! ## ACCEPT and READ_RETURN of a form -/

theorem legal_iff_highNibble (b : Byte) : legal b = true ↔ b.extractLsb' 4 4 = 0xF#4 := beq_iff_eq

/-- ACCEPT of a request that passes the validators latches it and issues the read (10_state.md R25). -/
theorem accept_of_valid {r : Request} (s : State) (hc : validChannel r.all r.idx = true)
    (hs : r.op = 1#1 → validState r.st = true) : accept r s = issueRead (latch r s) := by
  rcases accept_cases r s with ⟨hc', -⟩ | ⟨-, hop, hs', -⟩ | ⟨-, -, h⟩
  · simp [hc] at hc'
  · simp [hs hop] at hs'
  · exact h

/-- ACCEPT of any well-formed form (10_state.md R25). -/
theorem issuesOneRead_of_wellFormed {i : Instr} (h : i.wellFormed = true) : IssuesOneRead i := by
  intro s hp
  obtain ⟨hc, hs⟩ := Instr.request_valid_of_wellFormed h
  rw [exec_idle i s hp, accept_of_valid s hc hs]
  rfl

/-- In RD_PEND the event of every form is READ_RETURN; the forms differ only in what follows a legal byte (10_state.md
R25). -/
theorem exec_rdPend (i : Instr) :
    ∃ onLegal, ∀ s : State, s.phase = .rdPend → exec i s = .next (readReturn onLegal s) := by
  rcases bit_eq_zero_or_one i.request.op with h0 | h1
  · obtain ⟨_, ha⟩ := exec_get i h0
    exact ⟨_, fun s hp => by rw [ha, getOperation, hp]⟩
  · obtain ⟨_, -, ha⟩ := exec_set i h1
    exact ⟨_, fun s hp => by rw [ha, setOperation, hp]⟩

theorem readReturn_err (onLegal : Byte → State → State) {s : State} {e : ErrPayload} (h : s.rdPort = some (.err e)) :
    readReturn onLegal s = raise (.transportError e) { s with rdPort := none } := by
  simp only [readReturn, h]

theorem readReturn_illegal (onLegal : Byte → State → State) {s : State} {b : Byte} (h : s.rdPort = some (.val b))
    (hl : legal b = false) :
    readReturn onLegal s = raise .invalidRegisterByte { s with rdPort := none, rdByte := b } := by
  simp [readReturn, h, hl]

theorem readReturn_legal (onLegal : Byte → State → State) {s : State} {b : Byte} (h : s.rdPort = some (.val b))
    (hl : legal b = true) : readReturn onLegal s = onLegal b { s with rdPort := none, rdByte := b } := by
  simp only [readReturn, h, hl, if_true]

/-- A failed read ends every form alike (60_exceptions.md R114). -/
theorem passesReadFailureOn (i : Instr) : PassesReadFailureOn i := by
  intro s e hp hr
  obtain ⟨onLegal, ha⟩ := exec_rdPend i
  rw [ha s hp, readReturn_err onLegal hr]
  rfl

/-- An illegal byte ends every form alike (40_validate.md R73). -/
theorem rejectsIllegalByte (i : Instr) : RejectsIllegalByte i := by
  intro s b hp hr hb
  obtain ⟨onLegal, ha⟩ := exec_rdPend i
  have hl : legal b = false := Bool.eq_false_iff.mpr fun h => hb ((legal_iff_highNibble b).mp h)
  rw [ha s hp, readReturn_illegal onLegal hr hl]
  rfl

/-- GET answers a legal byte from that byte alone, and ends (41_get.md R80). -/
theorem getOperation_legal (r : Request) (answer : Byte → Response) {s : State} {b : Byte} (hp : s.phase = .rdPend)
    (hr : s.rdPort = some (.val b)) (hb : b.extractLsb' 4 4 = 0xF#4) :
    getOperation r answer s = .next { s with
      rdPort := none, rdByte := b, phase := .idle, responses := answer b :: s.responses } := by
  rw [getOperation, hp]
  exact congrArg Host.Outcome.next (readReturn_legal _ hr ((legal_iff_highNibble b).mpr hb))

/-! ## The vector decoded from a byte -/

/-- Channel `i` is read at register bit `3 - i`, 1 for OFF (41_get.md R81). -/
theorem decodeStates_get_eq_ite (b : Byte) (i : Fin 4) :
    (decodeStates b).get i = if b.getLsbD (3 - i.val) then .off else .on := decodeStates_get b i

/-- `select` of a channel ordinal reads the channel's own register bit (41_get.md R84). -/
theorem selectOne_decodeStates (b : Byte) {idx : Byte} (h : idx.toNat < 4) :
    selectOne (decodeStates b) idx = if b.getLsbD (3 - idx.toNat) then .off else .on := by
  rw [selectOne_ordinal _ _ h, decodeStates_get_eq_ite]

theorem rev4_getLsbD (n : BitVec 4) (i : Fin 4) : (rev4 n).getLsbD i.val = n.getLsbD (3 - i.val) := by
  revert n i
  decide

/-- `rdata` of the decoded vector is the complemented low nibble reversed (41_get.md R82, R85). -/
theorem rdataOf_decodeStates (b : Byte) : rdataOf (decodeStates b) = rev4 (~~~ b.extractLsb' 0 4) := by
  refine BitVec.eq_of_getLsbD_eq fun i hi => ?_
  have hbit : (~~~ b.extractLsb' 0 4).getLsbD (3 - i) = !b.getLsbD (3 - i) := by
    have : 3 - i < 4 := by omega
    simp [this]
  calc (rdataOf (decodeStates b)).getLsbD i
      = decide ((decodeStates b).get ⟨i, hi⟩ = .on) := rdataOf_getLsbD _ ⟨i, hi⟩
    _ = !b.getLsbD (3 - i) := by
      rw [decodeStates_get_eq_ite]
      cases b.getLsbD (3 - i) <;> rfl
    _ = (rev4 (~~~ b.extractLsb' 0 4)).getLsbD i := by rw [← hbit, ← rev4_getLsbD _ ⟨i, hi⟩]

/-! ## The statements -/

/-- Settles O14: the events are those of every form, and the answer is `select` of the decoded vector. -/
theorem getChFollowsItsRule : Obligations.GetChFollowsItsRule := by
  intro idx st hwf
  refine ⟨encode_and_mask hwf, issuesOneRead_of_wellFormed hwf, passesReadFailureOn _, rejectsIllegalByte _, ?_⟩
  intro s b hp hr hb
  rw [← selectOne_decodeStates b ((isOrdinal_iff idx).mp hwf)]
  exact getOperation_legal _ _ hp hr hb

/-- Settles O15: the events are those of every form, and the answer is the decoded vector itself. -/
theorem getAllFollowsItsRule : Obligations.GetAllFollowsItsRule := by
  intro idx st
  have hwf : (Instr.getAll idx st).wellFormed = true := rfl
  refine ⟨encode_and_mask hwf, issuesOneRead_of_wellFormed hwf, passesReadFailureOn _, rejectsIllegalByte _, ?_⟩
  intro s b hp hr hb
  exact ⟨decodeStates b, decodeStates_get_eq_ite b, rdataOf_decodeStates b, getOperation_legal _ _ hp hr hb⟩

end Sys2Proof.Machine
end

section
/-! The SET forms (42_set.md): the target mask and the encoder bit by bit, what READ_RETURN and WRITE_RETURN make of any SET
form, and the statements of the family. -/

namespace Sys2Proof.Machine

/-! ## The target mask -/

/-- The mask of ALL covers the four low bits, whatever `idx` is (42_set.md R91). -/
theorem mask_all_getLsbD (idx : Byte) {k : Nat} (hk : k < 8) : (mask 1#1 idx).getLsbD k = decide (k < 4) := by
  have hmask : mask 1#1 idx = 0x0F#8 := rfl
  rw [hmask]
  interval_cases k <;> rfl

/-- The mask of a channel is the one bit at its ordinal (42_set.md R91). -/
theorem mask_channel_getLsbD (idx : Byte) {k : Nat} (hk : k < 8) :
    (mask 0#1 idx).getLsbD k = decide (idx.toNat = k) := by
  have hmask : mask 0#1 idx = BitVec.twoPow 8 idx.toNat := (BitVec.twoPow_eq 8 idx.toNat).symm
  rw [hmask, BitVec.getLsbD_twoPow, ← Bool.decide_and]
  exact decide_eq_decide.mpr (by omega)

theorem mask_getLsbD_high {all : BitVec 1} {idx : Byte} (h : validChannel all idx = true) {k : Nat} (h4 : 4 ≤ k)
    (h8 : k < 8) : (mask all idx).getLsbD k = false := by
  rcases bit_eq_zero_or_one all with rfl | rfl
  · have hidx : idx.toNat ≤ 3 := by simpa [validChannel] using h
    rw [mask_channel_getLsbD idx h8]
    exact decide_eq_false (by omega)
  · rw [mask_all_getLsbD idx h8]
    exact decide_eq_false (by omega)

theorem mask_highNibble {all : BitVec 1} {idx : Byte} (h : validChannel all idx = true) :
    (mask all idx).extractLsb' 4 4 = 0#4 := by
  refine BitVec.eq_of_getLsbD_eq fun i hi => ?_
  have hbit : (mask all idx).getLsbD (4 + i) = false := mask_getLsbD_high h (by omega) (by omega)
  simp [hbit]

/-! ## The encoder -/

/-- The encoder bit by bit: a bit of the mask is forced, 1 for OFF, and every other bit is the one read (42_set.md R92). -/
theorem newByte_getLsbD (b : Byte) (all : BitVec 1) (idx : Byte) (st : RelayState) {k : Nat} (hk : k < 8) :
    (newByte b all idx st).getLsbD k = if (mask all idx).getLsbD k then decide (st = .off) else b.getLsbD k := by
  cases st with
  | on =>
    have hbits : (newByte b all idx .on).getLsbD k = (b.getLsbD k && !(mask all idx).getLsbD k) := by
      simp [newByte, not8_eq_not, hk]
    rw [hbits]
    cases (mask all idx).getLsbD k <;> simp
  | off =>
    have hbits : (newByte b all idx .off).getLsbD k = (b.getLsbD k || (mask all idx).getLsbD k) := BitVec.getLsbD_or
    rw [hbits]
    cases (mask all idx).getLsbD k <;> simp

/-- No SET changes the high nibble, so the byte written is legal when the byte read is (42_set.md R92). -/
theorem newByte_highNibble (b : Byte) {all : BitVec 1} {idx : Byte} (h : validChannel all idx = true)
    (st : RelayState) : (newByte b all idx st).extractLsb' 4 4 = b.extractLsb' 4 4 := by
  refine BitVec.eq_of_getLsbD_eq fun i hi => ?_
  have hbit : (newByte b all idx st).getLsbD (4 + i) = b.getLsbD (4 + i) := by
    rw [newByte_getLsbD b all idx st (by omega), mask_getLsbD_high h (by omega) (by omega)]
    rfl
  simp [hbit]

/-- The complement of the mask of ALL, taken over 8 bits, is 0xF0 (42_set.md R95, R98). -/
theorem newByte_all_on (b idx : Byte) : newByte b 1#1 idx .on = b &&& 0xF0#8 := by
  have hmask : mask 1#1 idx = 0x0F#8 := rfl
  have hnot : not8 0x0F#8 = 0xF0#8 := by decide
  rw [newByte, hmask, hnot]

/-- A SET of all channels forces the whole low nibble (42_set.md R95, R96). -/
theorem newByte_all_lowNibble (b idx : Byte) (st : RelayState) :
    (newByte b 1#1 idx st).extractLsb' 0 4 = if st = .off then 0xF#4 else 0x0#4 := by
  refine BitVec.eq_of_getLsbD_eq fun i hi => ?_
  have hbit : (newByte b 1#1 idx st).getLsbD i = decide (st = .off) := by
    rw [newByte_getLsbD b 1#1 idx st (by omega), mask_all_getLsbD idx (by omega), decide_eq_true hi]
    rfl
  rw [BitVec.getLsbD_extractLsb', Nat.zero_add, hbit, decide_eq_true hi]
  interval_cases i <;> cases st <;> rfl

/-- A SET of a channel whose bit already has the value it forces writes the byte read (42_set.md R93, R94). -/
theorem newByte_channel_eq_self {b idx : Byte} {st : RelayState} (h : b.getLsbD idx.toNat = decide (st = .off)) :
    newByte b 0#1 idx st = b := by
  refine BitVec.eq_of_getLsbD_eq fun k hk => ?_
  rw [newByte_getLsbD b 0#1 idx st hk, mask_channel_getLsbD idx hk]
  by_cases hidx : idx.toNat = k
  · rw [decide_eq_true hidx, if_pos rfl, ← h, hidx]
  · rw [decide_eq_false hidx, if_neg Bool.false_ne_true]

theorem byte_eq_append_nibbles (b : Byte) : b = b.extractLsb' 4 4 ++ b.extractLsb' 0 4 := by
  have happ : b.extractLsb' 4 4 ++ b.extractLsb' 0 4 = b.extractLsb' 0 8 :=
    BitVec.extractLsb'_append_extractLsb'_eq_extractLsb' rfl
  exact (happ.trans BitVec.extractLsb'_eq_self).symm

/-- From a legal byte a SET of all channels writes one byte, whatever the low nibble was (42_set.md R95, R96). -/
theorem newByte_all_of_legal {b : Byte} (idx : Byte) (st : RelayState) (hb : b.extractLsb' 4 4 = 0xF#4) :
    newByte b 1#1 idx st = if st = .off then 0xFF#8 else 0xF0#8 := by
  have hall : validChannel 1#1 idx = true := rfl
  rw [byte_eq_append_nibbles (newByte b 1#1 idx st), newByte_highNibble b hall st, hb, newByte_all_lowNibble]
  cases st <;> rfl

/-! ## READ_RETURN and WRITE_RETURN of a SET -/

/-- Every SET form writes what the encoder, at its own operands, makes of a legal byte (42_set.md section 4). -/
theorem writesAfterLegalByte_of_set {i : Instr} (st : RelayState) (hop : i.request.op = 1#1)
    (hst : stateOf i.request.st = some st) :
    WritesAfterLegalByte i (fun b => newByte b i.request.all i.request.idx st) := by
  intro s b hp hr hb
  obtain ⟨st', hst', ha⟩ := exec_set i hop
  obtain rfl : st' = st := Option.some.inj (hst'.symm.trans hst)
  rw [ha, setOperation, hp]
  exact congrArg Host.Outcome.next (readReturn_legal _ hr ((legal_iff_highNibble b).mpr hb))

/-- Every SET form ends on the acknowledgment with the byte sent, which REG then holds (42_set.md section 4). -/
theorem completesOnAcknowledgment_of_set {i : Instr} (st : RelayState) (hop : i.request.op = 1#1)
    (hst : stateOf i.request.st = some st) :
    CompletesOnAcknowledgment i (fun b => newByte b i.request.all i.request.idx st) :=
  fun _ _ hp hw => exec_set_acked hop hst hp hw

/-- A failed write ends the operation with the transport's payload, the device register holding some byte (42_set.md
section 4, 20_memory.md R36). -/
theorem writeReturn_err (sent : Byte) {s : State} {e : ErrPayload} {held : Option Byte}
    (hw : s.wrPort = some { result := .err e, held := held }) :
    ∃ v n, writeReturn sent s = raise (.transportError e) { s with wrPort := none, reg := v, draws := n } := by
  obtain ⟨v, n, hdev⟩ := deviceAfterWrite_spec sent { result := .err e, held := held } { s with wrPort := none }
  refine ⟨v, n, ?_⟩
  simp only [writeReturn, hw, answerWrite, hdev]

/-- A failed write ends every SET form alike (60_exceptions.md R114). -/
theorem passesWriteFailureOn_of_set {i : Instr} (hop : i.request.op = 1#1) : PassesWriteFailureOn i := by
  intro s e held hp hw
  obtain ⟨st, -, ha⟩ := exec_set i hop
  obtain ⟨v, n, hret⟩ := writeReturn_err (newByte s.rdByte i.request.all i.request.idx st) hw
  refine ⟨v, n, ?_⟩
  rw [ha, setOperation, hp]
  exact congrArg Host.Outcome.next hret

/-! ## The statements -/

/-- Settles O11: the two masks of R91, and no bit of either in the high nibble. -/
theorem targetMask : Obligations.TargetMask :=
  ⟨fun _ => rfl, rfl, rfl, rfl, rfl, fun _ _ h => mask_highNibble h⟩

/-- Settles O10, from the encoder bit by bit. -/
theorem encoderBits : Obligations.EncoderBits := by
  intro b all idx h
  exact ⟨rfl, rfl, fun k => ⟨newByte_getLsbD b all idx .on k.isLt, newByte_getLsbD b all idx .off k.isLt⟩,
    newByte_highNibble b h⟩

/-- Settles O16: the events are those of every SET form, and `b OR (1 << ch)` is the encoder at OFF. -/
theorem setChOffFollowsItsRule : Obligations.SetChOffFollowsItsRule := by
  intro idx hwf
  refine ⟨encode_and_mask hwf, issuesOneRead_of_wellFormed hwf, passesReadFailureOn _, rejectsIllegalByte _,
    writesAfterLegalByte_of_set .off rfl rfl, completesOnAcknowledgment_of_set .off rfl rfl,
    passesWriteFailureOn_of_set rfl, fun b hb => ⟨?_, fun hbit => ?_⟩⟩
  · exact (newByte_highNibble b (validChannel_of_isOrdinal 0#1 hwf) .off).trans hb
  · exact newByte_channel_eq_self (st := .off) hbit

/-- Settles O17: the events are those of every SET form, and `b AND NOT_8(1 << ch)` is the encoder at ON. -/
theorem setChOnFollowsItsRule : Obligations.SetChOnFollowsItsRule := by
  intro idx hwf
  refine ⟨encode_and_mask hwf, issuesOneRead_of_wellFormed hwf, passesReadFailureOn _, rejectsIllegalByte _,
    writesAfterLegalByte_of_set .on rfl rfl, completesOnAcknowledgment_of_set .on rfl rfl,
    passesWriteFailureOn_of_set rfl, fun b hb => ⟨?_, fun hbit => ?_⟩⟩
  · exact (newByte_highNibble b (validChannel_of_isOrdinal 0#1 hwf) .on).trans hb
  · exact newByte_channel_eq_self (st := .on) hbit

/-- Settles O18: the events are those of every SET form, and `b OR 0x0F` is the encoder at ALL, OFF. -/
theorem setAllOffFollowsItsRule : Obligations.SetAllOffFollowsItsRule := by
  intro idx
  have hwf : (Instr.setAllOff idx).wellFormed = true := rfl
  exact ⟨encode_and_mask hwf, issuesOneRead_of_wellFormed hwf, passesReadFailureOn _, rejectsIllegalByte _,
    writesAfterLegalByte_of_set .off rfl rfl, completesOnAcknowledgment_of_set .off rfl rfl,
    passesWriteFailureOn_of_set rfl, fun _ => newByte_all_of_legal idx .off⟩

/-- Settles O19: the events are those of every SET form, and `b AND 0xF0` is the encoder at ALL, ON. -/
theorem setAllOnFollowsItsRule : Obligations.SetAllOnFollowsItsRule := by
  intro idx
  have hwf : (Instr.setAllOn idx).wellFormed = true := rfl
  simp only [← newByte_all_on _ idx]
  exact ⟨encode_and_mask hwf, issuesOneRead_of_wellFormed hwf, passesReadFailureOn _, rejectsIllegalByte _,
    writesAfterLegalByte_of_set .on rfl rfl, completesOnAcknowledgment_of_set .on rfl rfl,
    passesWriteFailureOn_of_set rfl, fun _ => newByte_all_of_legal idx .on⟩

end Sys2Proof.Machine
end

section
/-! The errors of a whole operation (60_exceptions.md): the steps of an operation that begins in IDLE, up to the read's
result and up to the write's, and the statements of the family. -/

namespace Sys2Proof.Machine

/-! ## An operation from IDLE -/

/-- The state right after ACCEPT took the word of `i`, with `rest` still waiting and `turns` still to come (10_state.md
R25). -/
def operationBegun (i : Instr) (rest : List ReqWord) (turns : List Turn) (s : State) : State :=
  issueRead (latch i.request { s with requests := rest, world := turns })

/-- The form of a legal word passes the checks of ACCEPT (10_state.md R25). -/
theorem issuesOneRead_of_decode {w : ReqWord} {i : Instr} (hd : decode w = .ok i) : IssuesOneRead i := by
  intro s hp
  obtain ⟨hc, hs⟩ := decodeRequest_ok_valid _ _ hd
  rw [← decode_request w i hd] at hc hs
  rw [exec_idle i s hp, accept_of_valid s hc hs]
  rfl

/-- In IDLE the block's turn takes a legal word and begins its operation. -/
theorem step_accept_legal {s : State} {w : ReqWord} {i : Instr} {rest : List ReqWord} {turns : List Turn}
    (hp : s.phase = .idle) (hr : s.requests = w :: rest) (hd : decode w = .ok i) (hw : s.world = .accept :: turns) :
    step s = .next (operationBegun i rest turns s) := by
  have hfetch : fetch s = .run i { s with requests := rest, world := turns } := by
    rw [fetch_listed hw, takeTurn, acceptTurn]
    simp only [hp, hr, hd]
  rw [step_of_fetch_run hfetch]
  exact issuesOneRead_of_decode hd _ hp

/-- Latches that hold the request of a legal word's form hold that word. -/
theorem decode_latchedWord_of_request {s : State} {w : ReqWord} {i : Instr} (hd : decode w = .ok i)
    (hl : i.request = { op := s.reqOp, st := s.reqSt, all := s.reqAll, idx := s.reqIdx }) :
    decode (latchedWord s) = .ok i := by
  rw [latchedWord, ← hl, decode_request w i hd, Request.toWord_ofWord, hd]

/-- Two steps from IDLE, ACCEPT and a result of the read: the form meets the result, as the adapter presents it, in the
state ACCEPT left. -/
theorem runFor_two_of_readReturn {s t : State} {w : ReqWord} {i : Instr} {rest : List ReqWord} {raw : RawRead}
    {turns : List Turn} (hp : s.phase = .idle) (hr : s.requests = w :: rest) (hd : decode w = .ok i)
    (hw : s.world = .accept :: .readReturn raw :: turns)
    (hx : exec i { operationBegun i rest turns s with rdPort := some (adapt s.widths raw) } = .next t) :
    runFor 2 s = .next t := by
  have haccept := step_accept_legal hp hr hd hw
  have hread : step (operationBegun i rest (.readReturn raw :: turns) s) = .next t :=
    (step_of_readTurn rfl rfl (decode_latchedWord_of_request hd rfl) rfl).trans hx
  exact (runFor_succ 1 _ _ haccept).trans (runFor_succ 0 _ _ hread)

/-! ## A payload of the port's width -/

theorem adapt_failure {w : Widths} {e : ErrPayload} (h : e < 2 ^ w.errW) : adapt w (.failure e) = .err e :=
  congrArg ReadResult.err (onWires_eq h)

theorem adaptWrite_err {w : Widths} {e : ErrPayload} (h : e < 2 ^ w.errW) : adaptWrite w (.err e) = .err e :=
  congrArg WriteResult.err (onWires_eq h)

/-! ## A SET from IDLE to its write -/

theorem isSet_iff_op (i : Instr) : isSet i = true ↔ i.request.op = 1#1 := by
  cases i <;> simp [isSet, Instr.request]

/-- The state right after READ_RETURN took a legal `b` from the operation of `i` and sent `nb` (10_state.md R25). -/
def writeIssued (i : Instr) (rest : List ReqWord) (turns : List Turn) (b nb : Byte) (s : State) : State :=
  issueWrite nb { operationBegun i rest turns s with rdPort := none, rdByte := b }

/-- Two steps from IDLE of a SET whose read returns a legal byte: the read and the write of some byte have been issued,
the byte read is in `RD_BYTE`, and the block waits in WR_PEND (42_set.md section 4). -/
theorem runFor_two_of_set_legal {s : State} {w : ReqWord} {i : Instr} {rest : List ReqWord} {b : Byte}
    {turns : List Turn} (hp : s.phase = .idle) (hr : s.requests = w :: rest) (hd : decode w = .ok i)
    (hset : isSet i = true) (hb : legal b = true) (hw : s.world = .accept :: .readReturn (.byte b) :: turns) :
    ∃ nb, runFor 2 s = .next (writeIssued i rest turns b nb s) := by
  have hop := (isSet_iff_op i).mp hset
  obtain ⟨st, hst, -⟩ := exec_set i hop
  have hx := writesAfterLegalByte_of_set st hop hst
    { operationBegun i rest turns s with rdPort := some (.val b) } b rfl rfl ((legal_iff_highNibble b).mp hb)
  exact ⟨_, runFor_two_of_readReturn hp hr hd hw hx⟩

/-- A failed write, with a payload of the port's width, ends the SET awaiting it with that payload and issues no further
call (60_exceptions.md R114). -/
theorem step_writeFailure {s : State} {i : Instr} {e : ErrPayload} {held : Option Byte} {turns : List Turn}
    (hp : s.phase = .wrPend) (hd : decode (latchedWord s) = .ok i) (hset : isSet i = true)
    (he : e < 2 ^ s.widths.errW) (hw : s.world = .writeReturn { result := .err e, held := held } :: turns) :
    ∃ v n, step s = .next { s with
      world := turns, wrPort := none, reg := v, draws := n, phase := .idle,
      responses := .failed (.transportError e) :: s.responses } := by
  have hstep := step_of_writeTurn (ret := { result := .err e, held := held }) hp hw hd rfl
  rw [adaptWrite_err he] at hstep
  obtain ⟨v, n, hx⟩ := passesWriteFailureOn_of_set ((isSet_iff_op i).mp hset)
    { s with wrPort := some { result := .err e, held := held }, world := turns } e held hp rfl
  exact ⟨v, n, hstep.trans hx⟩

/-! ## The statements -/

/-- Settles O20: every form rejects the byte in the state ACCEPT left, and IDLE with an empty read port is as before. -/
theorem illegalByteEndsTheOperation : Obligations.IllegalByteEndsTheOperation := by
  intro s w i rest b turns hp hport hr hd hw hb
  have hx := rejectsIllegalByte i
    { operationBegun i rest turns s with rdPort := some (.val b) } b rfl rfl hb
  rw [runFor_two_of_readReturn hp hr hd hw hx, hp, hport]
  rfl

/-- Settles O21: the payload passes each port unchanged, and every form passes each failure on. -/
theorem transportErrorIsPassedOn : Obligations.TransportErrorIsPassedOn := by
  constructor
  · intro s w i rest e turns hp hport hr hd he hw
    have hx := passesReadFailureOn i
      { operationBegun i rest turns s with rdPort := some (.err e) } e rfl rfl
    rw [← adapt_failure he] at hx
    rw [runFor_two_of_readReturn hp hr hd hw hx, hp, hport]
    rfl
  · intro s w i rest b e held turns hp _ _ hr hd hset hb he hw
    obtain ⟨nb, hrun⟩ := runFor_two_of_set_legal hp hr hd hset hb hw
    obtain ⟨v, n, hstep⟩ := step_writeFailure (s := writeIssued i rest _ b nb s) (turns := turns) rfl
      (decode_latchedWord_of_request hd rfl) hset he rfl
    exact ⟨_, (runFor_add 2 1 _ _ hrun).trans (runFor_succ 0 _ _ hstep), rfl, rfl, rfl, rfl, nb, rfl⟩

end Sys2Proof.Machine
end

section
/-! A transport that never answers (70_reset_and_hazards.md R139): the default turn of an operation in progress, the step
it makes, and the statement of the family. -/

namespace Sys2Proof.Machine

/-- With no turn listed, the default one is taken. -/
theorem fetch_unlisted {s : State} (hw : s.world = []) : fetch s = takeTurn (defaultTurn s) s := by
  simp only [fetch, hw]

/-- Neither result comes from a silent transport, and no event of the block but a result's is enabled outside IDLE
(10_state.md R25, 60_exceptions.md R118). -/
theorem defaultTurn_silent {s : State} (hp : s.phase ≠ .idle) (ht : s.transport = .silent) : defaultTurn s = .wait := by
  cases hphase : s.phase with
  | idle => exact absurd hphase hp
  | rdPend => simp only [defaultTurn, hphase, ht]
  | wrPend => simp only [defaultTurn, hphase, ht]

/-- The block has no step of its own out of RD_PEND or WR_PEND (70_reset_and_hazards.md R139). -/
theorem step_silent {s : State} (hp : s.phase ≠ .idle) (hw : s.world = []) (ht : s.transport = .silent) :
    step s = .next s := by
  apply step_of_fetch_done
  rw [fetch_unlisted hw, defaultTurn_silent hp ht, takeTurn]

/-- A state that a step leaves as it is, a run of any length leaves as it is. -/
theorem runFor_of_step_self {s : State} (h : step s = .next s) (n : Nat) : runFor n s = .next s := by
  induction n with
  | zero => rfl
  | succ n ih => rw [runFor_succ n s s h, ih]

/-! ## The statement -/

/-- Settles O23: the state is a fixed point of the step, hence of every run. -/
theorem silentTransportHangsTheBlock : Obligations.SilentTransportHangsTheBlock :=
  fun _ n hp hw ht => runFor_of_step_self (step_silent hp hw ht) n

end Sys2Proof.Machine
end

section
/-! The encoding both ways (30_encoding.md): decode and encode are inverse, the opcode map's rows field by field, how
many words a row takes, and the statements on them. -/

namespace Sys2Proof

/-! ## Decode and encode -/

/-- A form is well-formed exactly when the channel validator passes its request. -/
theorem Instr.wellFormed_eq_validChannel (i : Instr) : i.wellFormed = validChannel i.request.all i.request.idx := by
  have hord : ∀ idx : Byte, isOrdinal idx = validChannel 0#1 idx := fun idx => by
    rw [Bool.eq_iff_iff, isOrdinal_iff, validChannel, Bool.or_eq_true, decide_eq_true_iff]
    simp
    omega
  cases i with
  | getCh idx st => exact hord idx
  | getAll idx st => rfl
  | setChOff idx => exact hord idx
  | setChOn idx => exact hord idx
  | setAllOff idx => rfl
  | setAllOn idx => rfl

theorem chan_ordinal {idx : Byte} (h : idx.toNat < 4) : chan 0#1 idx = some (.ch ⟨idx.toNat, h⟩) := by
  simp [chan, h]

/-- The fields a form fixes lead the decoder to that form, and it keeps the others (30_encoding.md R55). -/
theorem decodeRequest_request_of_wellFormed {i : Instr} (hwf : i.wellFormed = true) :
    decodeRequest i.request = .ok i := by
  cases i with
  | getCh idx st => simp [decodeRequest, Instr.request, chan_ordinal ((isOrdinal_iff idx).mp hwf)]
  | getAll idx st => rfl
  | setChOff idx => simp [decodeRequest, Instr.request, chan_ordinal ((isOrdinal_iff idx).mp hwf), stateOf]
  | setChOn idx => simp [decodeRequest, Instr.request, chan_ordinal ((isOrdinal_iff idx).mp hwf), stateOf]
  | setAllOff idx => rfl
  | setAllOn idx => rfl

/-- A word with the fields of a well-formed form decodes to it. -/
theorem decode_of_request {w : ReqWord} {i : Instr} (hwf : i.wellFormed = true) (h : i.request = Request.ofWord w) :
    decode w = .ok i := by
  rw [decode, ← h, decodeRequest_request_of_wellFormed hwf]

theorem decode_encode {i : Instr} (hwf : i.wellFormed = true) : decode (encode i) = .ok i :=
  decode_of_request hwf (Request.ofWord_toWord i.request).symm

theorem encode_of_decode {w : ReqWord} {i : Instr} (hd : decode w = .ok i) : encode i = w := by
  rw [encode, Machine.decode_request w i hd, Request.toWord_ofWord]

theorem wellFormed_of_decode {w : ReqWord} {i : Instr} (hd : decode w = .ok i) : i.wellFormed = true := by
  rw [Instr.wellFormed_eq_validChannel, Machine.decode_request w i hd]
  exact (decodeRequest_ok_valid _ _ hd).1

/-! ## The rows of the opcode map -/

theorem Instr.row_mem_opcodeTable (i : Instr) : i.row ∈ opcodeTable := by
  cases i <;> simp [Instr.row, opcodeTable]

theorem Request.ofWord_injective {v w : ReqWord} (h : Request.ofWord v = Request.ofWord w) : v = w := by
  rw [← Request.toWord_ofWord v, h, Request.toWord_ofWord]

/-- A word belongs to a row exactly when each of its fields does (30_encoding.md R50, R55). -/
theorem OpcodeRow.matches_iff (row : OpcodeRow) (w : ReqWord) :
    row.matches w = true ↔
      (Request.ofWord w).op &&& (Request.ofWord row.mask).op = (Request.ofWord row.pattern).op ∧
      (Request.ofWord w).st &&& (Request.ofWord row.mask).st = (Request.ofWord row.pattern).st ∧
      (Request.ofWord w).all &&& (Request.ofWord row.mask).all = (Request.ofWord row.pattern).all ∧
      (Request.ofWord w).idx &&& (Request.ofWord row.mask).idx = (Request.ofWord row.pattern).idx := by
  have hand : Request.ofWord (w &&& row.mask) = Request.ofWord row.pattern ↔ w &&& row.mask = row.pattern :=
    ⟨Request.ofWord_injective, congrArg Request.ofWord⟩
  rw [OpcodeRow.matches, beq_iff_eq, ← hand]
  simp only [Request.ofWord, Request.mk.injEq, BitVec.extractLsb'_and]

theorem matches_of_decode {w : ReqWord} {i : Instr} (hd : decode w = .ok i) : i.row.matches w = true := by
  rw [OpcodeRow.matches, ← encode_of_decode hd, beq_iff_eq]
  exact encode_and_mask (wellFormed_of_decode hd)

theorem isOrdinal_iff_and_mask (idx : Byte) : isOrdinal idx = true ↔ idx &&& 0xFC#8 = 0x00#8 := by
  revert idx
  decide

theorem and_all_ones_one (b : BitVec 1) : b &&& 1#1 = b := BitVec.and_allOnes

theorem and_all_ones_two (b : BitVec 2) : b &&& 3#2 = b := BitVec.and_allOnes

/-- The form a matching row stands for, at the word's own operands (30_encoding.md R55). -/
theorem exists_instr_of_matches {w : ReqWord} {row : OpcodeRow} (hrow : row ∈ opcodeTable)
    (h : row.matches w = true) : ∃ i : Instr, i.wellFormed = true ∧ i.request = Request.ofWord w ∧ i.row = row := by
  obtain ⟨hop, hst, hall, hidx⟩ := (OpcodeRow.matches_iff row w).mp h
  generalize Request.ofWord w = r at hop hst hall hidx
  obtain ⟨op, st, all, idx⟩ := r
  simp only [opcodeTable, List.mem_cons, List.not_mem_nil, or_false] at hrow
  rcases hrow with rfl | rfl | rfl | rfl | rfl | rfl <;>
    simp [Request.ofWord, and_all_ones_one, and_all_ones_two, ← isOrdinal_iff_and_mask] at hop hst hall hidx <;>
    subst hop hall
  · exact ⟨.getCh idx st, hidx, rfl, rfl⟩
  · exact ⟨.getAll idx st, rfl, rfl, rfl⟩
  · subst hst
    exact ⟨.setChOff idx, hidx, rfl, rfl⟩
  · subst hst
    exact ⟨.setChOn idx, hidx, rfl, rfl⟩
  · subst hst
    exact ⟨.setAllOff idx, rfl, rfl, rfl⟩
  · subst hst
    exact ⟨.setAllOn idx, rfl, rfl, rfl⟩

theorem exists_decode_of_matches {w : ReqWord} {row : OpcodeRow} (hrow : row ∈ opcodeTable)
    (h : row.matches w = true) : ∃ i, decode w = .ok i ∧ i.row = row := by
  obtain ⟨i, hwf, hreq, hi⟩ := exists_instr_of_matches hrow h
  exact ⟨i, decode_of_request hwf hreq, hi⟩

/-- A word that matches no row is one the decoder rejects (30_encoding.md R57). -/
theorem no_row_matches_iff_illegal (w : ReqWord) :
    (∀ row ∈ opcodeTable, row.matches w = false) ↔ ∃ e, decode w = .illegal e := by
  constructor
  · intro hnone
    rcases hd : decode w with i | e
    · exact absurd (matches_of_decode hd) (by simp [hnone _ i.row_mem_opcodeTable])
    · exact ⟨e, rfl⟩
  · rintro ⟨e, he⟩ row hrow
    by_contra hmatch
    obtain ⟨i, hd, -⟩ := exists_decode_of_matches hrow (by simpa using hmatch)
    simp [hd] at he

/-! ## How many words a row takes -/

/-- A block of 256 words fixes `op`, `st` and `all`: whether those three lie in a row's fields for them. -/
def OpcodeRow.takesFromBlock (row : OpcodeRow) (b : Nat) : Bool :=
  decide (BitVec.ofNat 1 (b / 8) &&& (Request.ofWord row.mask).op = (Request.ofWord row.pattern).op ∧
    BitVec.ofNat 2 (b / 2) &&& (Request.ofWord row.mask).st = (Request.ofWord row.pattern).st ∧
    BitVec.ofNat 1 b &&& (Request.ofWord row.mask).all = (Request.ofWord row.pattern).all)

theorem OpcodeRow.matches_block_iff (row : OpcodeRow) (b l : Nat) (hl : l < 256) :
    row.matches (BitVec.ofNat 12 (b * 256 + l)) = true ↔
      row.takesFromBlock b = true ∧
        BitVec.ofNat 8 l &&& (Request.ofWord row.mask).idx = (Request.ofWord row.pattern).idx := by
  rw [OpcodeRow.matches_iff, ofWord_block b l hl, OpcodeRow.takesFromBlock, decide_eq_true_iff]
  simp only [and_assoc]

/-- From every block it takes words from, a row takes those whose `idx` lies in its field for `idx`. -/
theorem countP_matches {row : OpcodeRow} {m p : Byte} {k blocks : Nat} (hm : (Request.ofWord row.mask).idx = m)
    (hp : (Request.ofWord row.pattern).idx = p) (hidx : Nat.count (fun l => BitVec.ofNat 8 l &&& m = p) 256 = k)
    (hblocks : ((Finset.range 16).filter fun b => row.takesFromBlock b = true).card = blocks) :
    (List.range 4096).countP (fun n => row.matches (BitVec.ofNat 12 n)) = blocks * k := by
  have hblock : ∀ b, Nat.count (fun l => row.matches (BitVec.ofNat 12 (b * 256 + l)) = true) 256 =
      if row.takesFromBlock b = true then k else 0 := by
    intro b
    split
    case isTrue htakes =>
      subst hm hp hidx
      refine count_congr_below fun l hl => ?_
      rw [row.matches_block_iff b l hl, and_iff_right htakes]
    case isFalse htakes =>
      exact Nat.count_of_forall_not fun l hl hmatch => htakes ((row.matches_block_iff b l hl).mp hmatch).1
  calc (List.range 4096).countP (fun n => row.matches (BitVec.ofNat 12 n))
      = Nat.count (fun n => row.matches (BitVec.ofNat 12 n) = true) (16 * 256) := by simp [Nat.count]
    _ = blocks * k := by
      rw [count_mul_eq_sum_blocks, Finset.sum_congr rfl fun b _ => hblock b, ← Finset.sum_filter,
        Finset.sum_const, hblocks, smul_eq_mul]

/-- A channel form takes the four ordinals. -/
theorem count_ordinal_idx : Nat.count (fun l => BitVec.ofNat 8 l &&& 0xFC#8 = 0x00#8) 256 = 4 := by
  have hord : ∀ l < 256, (BitVec.ofNat 8 l &&& 0xFC#8 = 0x00#8 ↔ ¬ 4 ≤ l) := by
    intro l hl
    rw [← isOrdinal_iff_and_mask, isOrdinal_iff, BitVec.toNat_ofNat]
    omega
  rw [count_congr_below hord]
  exact count_below 4 252

/-- A form of ALL takes any `idx`. -/
theorem count_any_idx : Nat.count (fun l => BitVec.ofNat 8 l &&& 0x00#8 = 0x00#8) 256 = 256 :=
  Nat.count_of_forall fun _ _ => BitVec.and_zero

/-- How many words a channel form's row takes, from how many blocks it takes words. -/
theorem countP_matches_channel {row : OpcodeRow} {blocks : Nat} (hm : (Request.ofWord row.mask).idx = 0xFC#8)
    (hp : (Request.ofWord row.pattern).idx = 0x00#8)
    (hblocks : ((Finset.range 16).filter fun b => row.takesFromBlock b = true).card = blocks) :
    (List.range 4096).countP (fun n => row.matches (BitVec.ofNat 12 n)) = blocks * 4 :=
  countP_matches hm hp count_ordinal_idx hblocks

/-- How many words the row of a form of ALL takes, from how many blocks it takes words. -/
theorem countP_matches_all {row : OpcodeRow} {blocks : Nat} (hm : (Request.ofWord row.mask).idx = 0x00#8)
    (hp : (Request.ofWord row.pattern).idx = 0x00#8)
    (hblocks : ((Finset.range 16).filter fun b => row.takesFromBlock b = true).card = blocks) :
    (List.range 4096).countP (fun n => row.matches (BitVec.ofNat 12 n)) = blocks * 256 :=
  countP_matches hm hp count_any_idx hblocks

/-! ## The statements -/

/-- Settles O1: the word has the form's fields, and those fields pass the validators of that form only. -/
theorem decodeOfEncode : Obligations.DecodeOfEncode := fun _ => decode_encode

/-- Settles O2: what decodes has the fields of the form, and no bit of the word is outside them. -/
theorem encodeOfDecode : Obligations.EncodeOfDecode := fun _ _ hd => ⟨wellFormed_of_decode hd, encode_of_decode hd⟩

/-- Settles O3: two rows that match one word are both the row of what it decodes to; the counts go block by block. -/
theorem decoderFollowsOpcodeMap : Obligations.DecoderFollowsOpcodeMap := by
  refine ⟨fun w i hd => ⟨i.row_mem_opcodeTable, matches_of_decode hd⟩, fun w row => exists_decode_of_matches,
    no_row_matches_iff_illegal, fun w a b ha hb hwa hwb => ?_, ?_⟩
  · obtain ⟨i, hi, rfl⟩ := exists_decode_of_matches ha hwa
    obtain ⟨j, hj, rfl⟩ := exists_decode_of_matches hb hwb
    obtain rfl : i = j := by simpa using hi.symm.trans hj
    rfl
  · simp only [opcodeTable, List.map_cons, List.map_nil, List.cons.injEq, and_true]
    exact ⟨countP_matches_channel (blocks := 4) rfl rfl rfl, countP_matches_all (blocks := 4) rfl rfl rfl,
      countP_matches_channel (blocks := 1) rfl rfl rfl, countP_matches_channel (blocks := 1) rfl rfl rfl,
      countP_matches_all (blocks := 1) rfl rfl rfl, countP_matches_all (blocks := 1) rfl rfl rfl⟩

/-- Settles O5: each word is the encoding of the form it stands for. -/
theorem writtenWordsDecode : Obligations.WrittenWordsDecode :=
  ⟨decode_encode (i := .getCh 0x02#8 0b00#2) rfl, decode_encode (i := .getCh 0x01#8 0b11#2) rfl,
    decode_encode (i := .getAll 0x00#8 0b00#2) rfl, decode_encode (i := .setChOff 0x03#8) rfl,
    decode_encode (i := .setChOn 0x00#8) rfl, decode_encode (i := .setAllOff 0x00#8) rfl,
    decode_encode (i := .setAllOn 0x5A#8) rfl⟩

theorem toNat_ofNat_ordinal (c : Fin 4) : (BitVec.ofNat 8 c.val).toNat = c.val := by
  rw [BitVec.toNat_ofNat]
  omega

/-- A channel's code is an ordinal (30_encoding.md R52, R62). -/
theorem isOrdinal_ofNat (c : Fin 4) : isOrdinal (BitVec.ofNat 8 c.val) = true := by
  rw [isOrdinal_iff, toNat_ofNat_ordinal]
  exact c.isLt

/-- Settles O7: the assembler writes the encoding of the form it names. -/
theorem assemblerWords : Obligations.AssemblerWords :=
  ⟨rfl, decode_encode (i := .getAll 0x00#8 0b00#2) rfl,
    fun c => decode_encode (i := .getCh (BitVec.ofNat 8 c.val) 0b00#2) (isOrdinal_ofNat c),
    fun c => decode_encode (i := .setChOff (BitVec.ofNat 8 c.val)) (isOrdinal_ofNat c),
    fun c => decode_encode (i := .setChOn (BitVec.ofNat 8 c.val)) (isOrdinal_ofNat c),
    decode_encode (i := .setAllOff 0x00#8) rfl, decode_encode (i := .setAllOn 0x00#8) rfl⟩

end Sys2Proof
end

section
/-! The register byte (40_validate.md, 41_get.md, 42_set.md): the legal bytes, the decoder's numbering, the laws of the
encoder, and the statements on them. -/

namespace Sys2Proof.Machine

/-! ## The legal bytes -/

/-- A high nibble of 0xF is a value of at least 0xF0 (40_validate.md R74). -/
theorem legal_iff_le_toNat (b : Byte) : legal b = true ↔ 0xF0 ≤ b.toNat := by
  have hlt := b.isLt
  rw [legal_iff_highNibble, ← BitVec.toNat_inj, BitVec.extractLsb'_toNat, Nat.shiftRight_eq_div_pow]
  simp only [BitVec.toNat_ofNat]
  omega

/-- The 16 listed bytes are those with the high nibble 0xF (40_validate.md R73). -/
theorem legal_iff_listed (b : Byte) :
    legal b = true ↔ b ∈ [0xFF#8, 0xFE#8, 0xFD#8, 0xFB#8, 0xF7#8, 0xFC#8, 0xF9#8, 0xF3#8,
      0xFA#8, 0xF5#8, 0xF6#8, 0xF8#8, 0xF1#8, 0xF2#8, 0xF4#8, 0xF0#8] := by
  revert b
  decide

/-! ## The decoder -/

/-- A channel is OFF exactly when its register bit is 1 (41_get.md R81). -/
theorem decodeStates_get_eq_off_iff (b : Byte) (i : Fin 4) :
    (decodeStates b).get i = .off ↔ b.getLsbD (3 - i.val) = true := by
  rw [decodeStates_get_eq_ite]
  cases b.getLsbD (3 - i.val) <;> simp

theorem lowNibble_getLsbD (b : Byte) {k : Nat} (hk : k < 4) : (b.extractLsb' 0 4).getLsbD k = b.getLsbD k := by
  simp [hk]

/-- Bit `i` of the reversed low nibble is the bit GET reads for channel `i` (41_get.md R81). -/
theorem rev4_lowNibble_getLsbD (b : Byte) (i : Fin 4) :
    (rev4 (b.extractLsb' 0 4)).getLsbD i.val = b.getLsbD (3 - i.val) := by
  rw [rev4_getLsbD, lowNibble_getLsbD b (by omega)]

/-- Only the low nibble is decoded (41_get.md R81). -/
theorem decodeStates_congr {a b : Byte} (h : a.extractLsb' 0 4 = b.extractLsb' 0 4) :
    decodeStates a = decodeStates b := by
  refine Vector.ext fun i hi => ?_
  have hget : (decodeStates a).get ⟨i, hi⟩ = (decodeStates b).get ⟨i, hi⟩ := by
    rw [decodeStates_get_eq_ite, decodeStates_get_eq_ite, ← lowNibble_getLsbD a (by omega), h,
      lowNibble_getLsbD b (by omega)]
  simpa only [Vector.get_eq_getElem] using hget

/-! ## The encoder -/

/-- A SET forces its bits to a value that does not depend on them, so a second one changes nothing (42_set.md R99). -/
theorem newByte_idempotent (b : Byte) (all : BitVec 1) (idx : Byte) (st : RelayState) :
    newByte (newByte b all idx st) all idx st = newByte b all idx st := by
  refine BitVec.eq_of_getLsbD_eq fun k hk => ?_
  rw [newByte_getLsbD _ all idx st hk, newByte_getLsbD b all idx st hk]
  split <;> rfl

/-- SETs of different channels force different bits (42_set.md R99). -/
theorem newByte_channel_comm (b : Byte) {c d : Byte} (st su : RelayState) (h : c ≠ d) :
    newByte (newByte b 0#1 c st) 0#1 d su = newByte (newByte b 0#1 d su) 0#1 c st := by
  refine BitVec.eq_of_getLsbD_eq fun k hk => ?_
  simp only [newByte_getLsbD _ _ _ _ hk, mask_channel_getLsbD _ hk, decide_eq_true_iff]
  by_cases hc : c.toNat = k
  · have hd : d.toNat ≠ k := fun hd => h (BitVec.eq_of_toNat_eq (hc.trans hd.symm))
    rw [if_neg hd, if_pos hc, if_pos hc]
  · rw [if_neg hc, if_neg hc]

/-! ## The statements -/

/-- Settles O8: the list, the range and the high nibble are each what `legal` tests. -/
theorem legalBytes : Obligations.LegalBytes :=
  fun b => ⟨legal_iff_listed b, legal_iff_le_toNat b, legal_iff_highNibble b⟩

/-- Settles O9, channel by channel. -/
theorem decoderMapping : Obligations.DecoderMapping := by
  refine ⟨fun b i => ⟨?_, decodeStates_get_eq_off_iff b i⟩, fun _ _ => decodeStates_congr, rdataOf_decodeStates⟩
  rw [decodeStates_get_eq_ite, rev4_lowNibble_getLsbD]

/-- Settles O12, bit by bit. -/
theorem encoderLaws : Obligations.EncoderLaws :=
  ⟨fun b all idx st _ => newByte_idempotent b all idx st, fun b _ _ st su _ _ h => newByte_channel_comm b st su h⟩

/-- Settles O43: GET of a channel selects from the vector GET of all channels answers. -/
theorem singleChannelAndVectorAgree : Obligations.SingleChannelAndVectorAgree := by
  intro s t b c st su idx hps hpt hrs hrt hl
  have hb := (legal_iff_highNibble b).mp hl
  have hc := toNat_ofNat_ordinal c
  have hselect : selectOne (decodeStates b) (BitVec.ofNat 8 c.val) = (decodeStates b).get c := by
    rw [selectOne_ordinal _ _ (hc.trans_lt c.isLt)]
    exact congrArg _ (Fin.ext hc)
  refine ⟨_, _, decodeStates b, getOperation_legal _ _ hps hrs hb, getOperation_legal _ _ hpt hrt hb, ?_, rfl⟩
  rw [← hselect]

end Sys2Proof.Machine
end

section
/-! Single steps (10_state.md section 9, 70_reset_and_hazards.md section 1): an event without its result, the instruction
a step runs, requests that wait, resets and late results, and the statements on them. -/

namespace Sys2Proof.Machine

/-! ## Events without a result -/

theorem readReturn_none (onLegal : Byte → State → State) {s : State} (h : s.rdPort = none) :
    readReturn onLegal s = s := by
  simp only [readReturn, h]

theorem writeReturn_none (sent : Byte) {s : State} (h : s.wrPort = none) : writeReturn sent s = s := by
  simp only [writeReturn, h]

theorem isSet_eq_false_iff_op (i : Instr) : isSet i = false ↔ i.request.op = 0#1 := by
  cases i <;> simp [isSet, Instr.request]

/-! ## The turn of a step -/

/-- In IDLE the block's turn runs the form of the first waiting word, which it takes from the line (10_state.md R25). -/
theorem acceptTurn_legal {s : State} {w : ReqWord} {rest : List ReqWord} {i : Instr} (hp : s.phase = .idle)
    (hr : s.requests = w :: rest) (hd : decode w = .ok i) : acceptTurn s = .run i { s with requests := rest } := by
  simp only [acceptTurn, hp, hr, hd]

/-- Outside IDLE the block's turn to accept leaves the line as it is (10_state.md R17). -/
theorem acceptTurn_busy {s : State} (hp : s.phase ≠ .idle) : acceptTurn s = .done (.next s) := by
  rw [acceptTurn]
  split
  case h_1 hidle _ => exact absurd hidle hp
  case h_2 => rfl

theorem acceptTurn_no_request {s : State} (hr : s.requests = []) : acceptTurn s = .done (.next s) := by
  rw [acceptTurn]
  split
  case h_1 hsome => simp [hr] at hsome
  case h_2 => rfl

theorem acceptTurn_illegal {s : State} {w : ReqWord} {rest : List ReqWord} {e : DecodeError} (hp : s.phase = .idle)
    (hr : s.requests = w :: rest) (hd : decode w = .illegal e) :
    acceptTurn s = .done (.next (accept (Request.ofWord w) { s with requests := rest })) := by
  simp only [acceptTurn, hp, hr, hd]

theorem readTurn_awaited {s : State} {i : Instr} (res : ReadResult) (hp : s.phase = .rdPend)
    (hd : decode (latchedWord s) = .ok i) : readTurn res s = .run i { s with rdPort := some res } := by
  rw [readTurn, if_pos hp]
  exact resume_of_decode hd

theorem writeTurn_awaited {s : State} {i : Instr} (ret : WriteReturn) (hp : s.phase = .wrPend)
    (hd : decode (latchedWord s) = .ok i) :
    writeTurn ret s = .run i { s with wrPort := some { ret with result := adaptWrite s.widths ret.result } } := by
  rw [writeTurn, if_pos hp]
  exact resume_of_decode hd

theorem readTurn_not_legal {s : State} {e : DecodeError} (res : ReadResult) (hp : s.phase = .rdPend)
    (hd : decode (latchedWord s) = .illegal e) : readTurn res s = .done (.fault .latchesNotLegal) := by
  have hd' : decode (latchedWord { s with rdPort := some res }) = .illegal e := hd
  rw [readTurn, if_pos hp]
  simp only [resume, hd']

theorem readTurn_unawaited {s : State} (res : ReadResult) (hp : s.phase ≠ .rdPend) :
    readTurn res s = .done (.next (discardLate Call.isRead s)) := by
  rw [readTurn, if_neg hp]

theorem writeTurn_unawaited {s : State} (ret : WriteReturn) (hp : s.phase ≠ .wrPend) :
    writeTurn ret s = .done (.next (discardLate Call.isWrite s)) := by
  rw [writeTurn, if_neg hp]

/-- Every request word fits the 16 bits of a fetched word (30_encoding.md R50). -/
theorem tableWord_toNat (w : ReqWord) : tableWord 16 w.toNat = some w := by
  have hlt := w.isLt
  have hmod : w.toNat % 2 ^ 16 = w.toNat := Nat.mod_eq_of_lt (by omega)
  rw [tableWord, hmod, if_pos hlt, BitVec.ofNat_toNat, BitVec.setWidth_eq]

/-- In IDLE a step with the block's turn listed is the event of the waiting word's form (10_state.md R25). -/
theorem step_accept_exec {s : State} {w : ReqWord} {rest : List ReqWord} {turns : List Turn} {i : Instr}
    (hp : s.phase = .idle) (hr : s.requests = w :: rest) (hw : s.world = .accept :: turns) (hd : decode w = .ok i) :
    step s = exec i { s with requests := rest, world := turns } :=
  step_of_fetch_run ((fetch_listed hw).trans (acceptTurn_legal hp hr hd))

/-- A late read's result changes nothing but the list of abandoned calls (70_reset_and_hazards.md R131). -/
theorem step_lateRead {s : State} {raw : RawRead} {turns : List Turn} (hw : s.world = .lateRead raw :: turns) :
    step s = .next { s with world := turns, abandoned := s.abandoned.eraseP Call.isRead } :=
  step_of_fetch_done (fetch_listed hw)

theorem step_lateWrite {s : State} {result : WriteResult} {turns : List Turn}
    (hw : s.world = .lateWrite result :: turns) :
    step s = .next { s with world := turns, abandoned := s.abandoned.eraseP Call.isWrite } :=
  step_of_fetch_done (fetch_listed hw)

/-- A read's result that none awaits is a late one (70_reset_and_hazards.md R131). -/
theorem step_readReturn_unawaited {s : State} {raw : RawRead} {turns : List Turn} (hp : s.phase ≠ .rdPend)
    (hw : s.world = .readReturn raw :: turns) :
    step s = .next { s with world := turns, abandoned := s.abandoned.eraseP Call.isRead } :=
  step_of_fetch_done ((fetch_listed hw).trans (readTurn_unawaited _ hp))

theorem step_writeReturn_unawaited {s : State} {ret : WriteReturn} {turns : List Turn} (hp : s.phase ≠ .wrPend)
    (hw : s.world = .writeReturn ret :: turns) :
    step s = .next { s with world := turns, abandoned := s.abandoned.eraseP Call.isWrite } :=
  step_of_fetch_done ((fetch_listed hw).trans (writeTurn_unawaited _ hp))

theorem step_blockReset {s : State} {turns : List Turn} (hw : s.world = .blockReset :: turns) :
    step s = .next (blockReset { s with world := turns }) :=
  step_of_fetch_done (fetch_listed hw)

/-! ## The statements -/

/-- Settles O24: the events READ_RETURN and WRITE_RETURN wait for their results. -/
theorem noResultNoMove : Obligations.NoResultNoMove := by
  refine fun i s => ⟨fun hp hr => ?_, fun hp hw hset => ?_⟩
  · obtain ⟨onLegal, ha⟩ := exec_rdPend i
    rw [ha s hp, readReturn_none onLegal hr]
  · obtain ⟨st, -, ha⟩ := exec_set i ((isSet_iff_op i).mp hset)
    rw [ha, setOperation, hp]
    exact congrArg Host.Outcome.next (writeReturn_none _ hw)

/-- Settles O25: GET has no event in WR_PEND. -/
theorem getNeverWaitsForAWrite : Obligations.GetNeverWaitsForAWrite := by
  intro i s hget hp
  obtain ⟨answer, ha⟩ := exec_get i ((isSet_eq_false_iff_op i).mp hget)
  rw [ha, getOperation, hp]

/-- Settles O26: the turn puts its result at the port and resumes the latched instruction; a word placed by the
requester is taken from the line again by the step that runs it. -/
theorem stepRunsTheDecodedInstruction : Obligations.StepRunsTheDecodedInstruction := by
  refine ⟨fun s w rest turns i hp hr hw hd => step_accept_exec hp hr hw hd,
    fun s raw turns i hp hw hd => step_of_readTurn hp hw hd rfl,
    fun s ret turns i hp hw hd => step_of_writeTurn hp hw hd rfl, fun s i hwf => ?_⟩
  have hplaced : s.withFetchWord 16 (encode i).toNat = presentNext (encode i) s := by
    rw [State.withFetchWord, tableWord_toNat]
  rw [hplaced]
  exact step_accept_exec rfl rfl rfl (decode_encode hwf)

/-- Settles O28: the adapter presents 0x00, whose high nibble every form rejects. -/
theorem nonByteIsAnInvalidRegisterByte : Obligations.NonByteIsAnInvalidRegisterByte := by
  intro s i turns hp hw hport hd
  have hx := rejectsIllegalByte i { s with rdPort := some (.val 0x00#8), world := turns } 0x00#8 hp rfl (by decide)
  rw [step_of_readTurn (res := .val 0x00#8) hp hw hd rfl, hx, hport]

/-- Settles O29: the line only grows, and ACCEPT is enabled in IDLE alone. -/
theorem requestWaitsDuringAnOperation : Obligations.RequestWaitsDuringAnOperation :=
  ⟨fun _ _ _ hw => step_of_fetch_done (fetch_listed hw),
    fun _ _ hp hw => step_of_fetch_done ((fetch_listed hw).trans (acceptTurn_busy hp))⟩

/-- Settles O31: the reset is `blockReset_spec`; a result that no event awaits is discarded. -/
theorem blockResetAbandonsTheOperation : Obligations.BlockResetAbandonsTheOperation := by
  refine ⟨fun s turns hw => ?_, fun s raw turns h => ?_, fun s ret turns h => ?_⟩
  · obtain ⟨r, b, v, n, hv, hreset⟩ := blockReset_spec { s with world := turns }
    exact ⟨_, (step_blockReset hw).trans (congrArg _ hreset), rfl, rfl, rfl, rfl, rfl, rfl, rfl, rfl, rfl, hv⟩
  · rcases h with hw | ⟨hp, hw⟩
    · exact step_lateRead hw
    · exact step_readReturn_unawaited hp hw
  · rcases h with hw | ⟨hp, hw⟩
    · exact step_lateWrite hw
    · exact step_writeReturn_unawaited hp hw

end Sys2Proof.Machine
end

section
/-! The invariant (10_state.md section 9): a sound state stays sound under every operation on the state, hence under
every step, and every step from it answers a next state; and the statements on it. -/

namespace Sys2Proof.Machine

/-! ## The events of a form in RD_PEND and WR_PEND -/

/-- In RD_PEND a GET form's event is READ_RETURN, and its answer to a legal byte carries no payload (41_get.md R80). -/
theorem exec_get_rdPend {i : Instr} (hop : i.request.op = 0#1) :
    ∃ answer : Byte → Response, (∀ b w, (answer b).fits w = true) ∧
      ∀ s : State, s.phase = .rdPend → exec i s = .next (readReturn (fun b t => respond (answer b) t) s) := by
  have hevent : ∀ (r : Request) (answer : Byte → Response) (s : State), s.phase = .rdPend →
      getOperation r answer s = .next (readReturn (fun b t => respond (answer b) t) s) :=
    fun r answer s hp => by rw [getOperation, hp]
  cases i
  case getCh idx st => exact ⟨_, fun _ _ => rfl, fun s hp => hevent _ _ s hp⟩
  case getAll idx st => exact ⟨_, fun _ _ => rfl, fun s hp => hevent _ _ s hp⟩
  all_goals simp [Instr.request] at hop

/-- In RD_PEND a SET form's event is READ_RETURN, which sends what the encoder makes of a legal byte (42_set.md
section 4). -/
theorem exec_set_rdPend {i : Instr} {s : State} {st : RelayState} (hop : i.request.op = 1#1)
    (hst : stateOf i.request.st = some st) (hp : s.phase = .rdPend) :
    exec i s = .next
      (readReturn (fun b t => issueWrite (newByte b i.request.all i.request.idx st) t) s) := by
  obtain ⟨st', hst', ha⟩ := exec_set i hop
  obtain rfl : st' = st := Option.some.inj (hst'.symm.trans hst)
  rw [ha, setOperation, hp]

/-- In WR_PEND a SET form's event is WRITE_RETURN, for the byte made from `RD_BYTE` (42_set.md section 4). -/
theorem exec_set_wrPend {i : Instr} {s : State} {st : RelayState} (hop : i.request.op = 1#1)
    (hst : stateOf i.request.st = some st) (hp : s.phase = .wrPend) :
    exec i s = .next (writeReturn (newByte s.rdByte i.request.all i.request.idx st) s) := by
  obtain ⟨st', hst', ha⟩ := exec_set i hop
  obtain rfl : st' = st := Option.some.inj (hst'.symm.trans hst)
  rw [ha, setOperation, hp]

/-! ## Sound states -/

/-- In IDLE a state is sound if its ports are empty and its histories are. -/
theorem sound_of_idle {s : State} (hp : s.phase = .idle) (hports : s.rdPort = none ∧ s.wrPort = none)
    (hfirst : readBeforeEachWrite s.calls = true) (hcfg : ∀ c ∈ s.calls, c.config = s.cfg)
    (hlegal : ∀ cfg v, Call.write cfg v ∈ s.calls → legal v = true) (hissued : ∀ c ∈ s.abandoned, c ∈ s.calls)
    (hfit : ∀ r ∈ s.responses, r.fits s.widths = true) : Sound s where
  ports_empty := hports
  latches_valid := fun hne => absurd hp hne
  write_of_set := fun hw => by simp [hp] at hw
  read_outstanding := fun hr => by simp [hp] at hr
  write_outstanding := fun hw => by simp [hp] at hw
  read_first := hfirst
  config_presented := hcfg
  writes_legal := hlegal
  abandoned_issued := hissued
  payloads_fit := hfit

theorem sound_resetWith (r : Byte) (cfg : Cfg) (w : Widths) : Sound (State.resetWith r cfg w) :=
  sound_of_idle rfl ⟨rfl, rfl⟩ rfl (fun _ h => by cases h) (fun _ _ h => by cases h) (fun _ h => by cases h)
    (fun _ h => by cases h)

/-- The latches of an operation in progress hold a legal request (10_state.md R14, R15). -/
theorem Sound.exists_latched {s : State} (h : Sound s) (hp : s.phase ≠ .idle) :
    ∃ i, decode (latchedWord s) = .ok i := by
  obtain ⟨hc, hs⟩ := h.latches_valid hp
  obtain ⟨i, hi⟩ := decodeRequest_of_valid { op := s.reqOp, st := s.reqSt, all := s.reqAll, idx := s.reqIdx } hc hs
  exact ⟨i, by rw [decode, latchedWord, Request.ofWord_toWord, hi]⟩

/-- What waits for a write is a SET (10_state.md R25). -/
theorem Sound.latched_op_of_wrPend {s : State} {i : Instr} (h : Sound s) (hp : s.phase = .wrPend)
    (hd : decode (latchedWord s) = .ok i) : i.request.op = 1#1 := by
  rw [latched_request s i hd]
  exact (h.write_of_set hp).1

/-! ## The operations keep a state sound -/

theorem Sound.respond {s : State} (h : Sound s) {r : Response} (hr : r.fits s.widths = true) : Sound (respond r s) :=
  sound_of_idle rfl h.ports_empty h.read_first h.config_presented h.writes_legal h.abandoned_issued
    (List.forall_mem_cons.mpr ⟨hr, h.payloads_fit⟩)

theorem Sound.discardLate {s : State} (h : Sound s) (ofKind : Call → Bool) : Sound (discardLate ofKind s) :=
  { h with abandoned_issued := fun c hc => h.abandoned_issued c (List.mem_of_mem_eraseP hc) }

theorem Sound.blockReset {s : State} (h : Sound s) : Sound (blockReset s) := by
  obtain ⟨r, b, v, n, -, hreset⟩ := blockReset_spec s
  rw [hreset]
  refine sound_of_idle rfl ⟨rfl, rfl⟩ h.read_first h.config_presented h.writes_legal (fun c hc => ?_) h.payloads_fit
  exact (List.mem_append.mp hc).elim (h.abandoned_issued c) (mem_calls_of_mem_outstanding s c)

/-- In IDLE the latches may hold anything. -/
theorem Sound.latch {s : State} (h : Sound s) (hp : s.phase = .idle) (r : Request) : Sound (latch r s) :=
  sound_of_idle hp h.ports_empty h.read_first h.config_presented h.writes_legal h.abandoned_issued h.payloads_fit

theorem Sound.issueRead {s : State} (h : Sound s) (hc : validChannel s.reqAll s.reqIdx = true)
    (hs : s.reqOp = 1#1 → validState s.reqSt = true) : Sound (issueRead s) where
  ports_empty := h.ports_empty
  latches_valid := fun _ => ⟨hc, hs⟩
  write_of_set := fun hw => by cases hw
  read_outstanding := fun _ => rfl
  write_outstanding := fun hw => by cases hw
  read_first := h.read_first
  config_presented := List.forall_mem_cons.mpr ⟨rfl, h.config_presented⟩
  writes_legal := fun cfg v hv => h.writes_legal cfg v (by simpa using hv)
  abandoned_issued := fun c hc => List.mem_cons_of_mem _ (h.abandoned_issued c hc)
  payloads_fit := h.payloads_fit

theorem Sound.accept {s : State} (h : Sound s) (hp : s.phase = .idle) (r : Request) : Sound (accept r s) := by
  rcases accept_cases r s with ⟨-, ha⟩ | ⟨-, -, -, ha⟩ | ⟨hc, hs, ha⟩
  · rw [ha]
    exact h.respond rfl
  · rw [ha]
    exact h.respond rfl
  · rw [ha]
    exact (h.latch hp r).issueRead hc hs

/-- The write of the new byte made from a legal `RD_BYTE`, with its read just before it (20_memory.md R43, 42_set.md
R97). -/
theorem Sound.issueWrite {s : State} (h : Sound s) (hp : s.phase = .rdPend) (hop : s.reqOp = 1#1) {st : RelayState}
    (hst : stateOf s.reqSt = some st) (hb : legal s.rdByte = true) :
    Sound (issueWrite (newByte s.rdByte s.reqAll s.reqIdx st) s) := by
  have hvalid := h.latches_valid (by simp [hp])
  have hnew : legal (newByte s.rdByte s.reqAll s.reqIdx st) = true := by
    rw [legal_iff_highNibble, newByte_highNibble _ hvalid.1, ← legal_iff_highNibble, hb]
  exact {
    ports_empty := h.ports_empty
    latches_valid := fun _ => hvalid
    write_of_set := fun _ => ⟨hop, hb⟩
    read_outstanding := fun hr => by cases hr
    write_outstanding := fun _ su hsu => by
      obtain rfl : st = su := Option.some.inj (hst.symm.trans hsu)
      rfl
    read_first := by
      simp [readBeforeEachWrite, h.read_outstanding hp, Call.isRead, h.read_first]
    config_presented := List.forall_mem_cons.mpr ⟨rfl, h.config_presented⟩
    writes_legal := fun cfg v hv => by
      rcases List.mem_cons.mp hv with heq | hmem
      · obtain ⟨-, rfl⟩ := Call.write.inj heq
        exact hnew
      · exact h.writes_legal cfg v hmem
    abandoned_issued := fun c hc => List.mem_cons_of_mem _ (h.abandoned_issued c hc)
    payloads_fit := h.payloads_fit }

/-- In RD_PEND `RD_BYTE` may hold anything. -/
theorem Sound.withByteRead {s : State} (h : Sound s) (hp : s.phase = .rdPend) (b : Byte) :
    Sound { s with rdPort := none, rdByte := b } :=
  { h with
    ports_empty := ⟨rfl, h.ports_empty.2⟩
    write_of_set := fun hw => by simp [hp] at hw
    write_outstanding := fun hw => by simp [hp] at hw }

/-- READ_RETURN keeps a state sound if what follows a legal byte does. -/
theorem Sound.readReturn {s : State} (h : Sound s) (hp : s.phase = .rdPend) {res : ReadResult}
    (hf : ∀ e, res = .err e → e < 2 ^ s.widths.errW) {onLegal : Byte → State → State}
    (hlegal : ∀ b, legal b = true → Sound (onLegal b { s with rdPort := none, rdByte := b })) :
    Sound (readReturn onLegal { s with rdPort := some res }) := by
  rcases readReturn_cases onLegal { s with rdPort := some res } with
    ⟨hport, -⟩ | ⟨e, hport, hr⟩ | ⟨b, hport, hb, hr⟩ | ⟨b, hport, -, hr⟩
  · cases hport
  · rw [hr]
    have hsound : Sound { s with rdPort := none } := { h with ports_empty := ⟨rfl, h.ports_empty.2⟩ }
    exact hsound.respond (decide_eq_true (hf e (Option.some.inj hport)))
  · rw [hr]
    exact hlegal b hb
  · rw [hr]
    exact (h.withByteRead hp b).respond rfl

/-- An event in RD_PEND keeps a state sound: a GET answers a state or a vector, a SET writes a legal byte. -/
theorem Sound.exec_rdPend {s t : State} (h : Sound s) (hp : s.phase = .rdPend) {i : Instr}
    (hd : decode (latchedWord s) = .ok i) {res : ReadResult} (hf : ∀ e, res = .err e → e < 2 ^ s.widths.errW)
    (hx : exec i { s with rdPort := some res } = .next t) : Sound t := by
  have hreq := latched_request s i hd
  rcases bit_eq_zero_or_one i.request.op with h0 | h1
  · obtain ⟨answer, hfit, ha⟩ := exec_get_rdPend h0
    obtain rfl : _ = t := Host.Outcome.next.inj ((ha { s with rdPort := some res } hp).symm.trans hx)
    exact h.readReturn hp hf fun b _ => (h.withByteRead hp b).respond (hfit b _)
  · obtain ⟨st, hst, -⟩ := exec_set i h1
    obtain rfl : _ = t :=
      Host.Outcome.next.inj ((exec_set_rdPend (s := { s with rdPort := some res }) h1 hst hp).symm.trans hx)
    rw [hreq] at hst h1 ⊢
    refine h.readReturn hp hf fun b hb => ?_
    exact (h.withByteRead hp b).issueWrite hp h1 hst hb

/-- WRITE_RETURN keeps a state sound, whatever the device then holds. -/
theorem Sound.writeReturn {s : State} (h : Sound s) (sent : Byte) {ret : WriteReturn}
    (ha : ∀ a, ret.result = .ack a → a < 2 ^ s.widths.ackW) (hf : ∀ e, ret.result = .err e → e < 2 ^ s.widths.errW) :
    Sound (writeReturn sent { s with wrPort := some ret }) := by
  obtain ⟨v, n, hdev⟩ := deviceAfterWrite_spec sent ret { s with wrPort := none }
  have hsound : Sound (deviceAfterWrite sent ret { s with wrPort := none }) := by
    rw [hdev]
    exact { h with ports_empty := ⟨h.ports_empty.1, rfl⟩ }
  have hwidths : (deviceAfterWrite sent ret { s with wrPort := none }).widths = s.widths := by rw [hdev]
  rcases writeReturn_cases sent { s with wrPort := some ret } with
    ⟨hport, -⟩ | ⟨ret', a, hport, hres, hr⟩ | ⟨ret', e, hport, hres, hr⟩
  · cases hport
  · obtain rfl : ret = ret' := Option.some.inj hport
    rw [hr]
    exact hsound.respond (by rw [hwidths]; exact decide_eq_true (ha a hres))
  · obtain rfl : ret = ret' := Option.some.inj hport
    rw [hr]
    exact hsound.respond (by rw [hwidths]; exact decide_eq_true (hf e hres))

/-- An event in WR_PEND keeps a state sound. -/
theorem Sound.exec_wrPend {s t : State} (h : Sound s) (hp : s.phase = .wrPend) {i : Instr}
    (hd : decode (latchedWord s) = .ok i) {ret : WriteReturn} (ha : ∀ a, ret.result = .ack a → a < 2 ^ s.widths.ackW)
    (hf : ∀ e, ret.result = .err e → e < 2 ^ s.widths.errW) (hx : exec i { s with wrPort := some ret } = .next t) :
    Sound t := by
  have hop := h.latched_op_of_wrPend hp hd
  obtain ⟨st, hst, -⟩ := exec_set i hop
  obtain rfl : _ = t :=
      Host.Outcome.next.inj ((exec_set_wrPend (s := { s with wrPort := some ret }) hop hst hp).symm.trans hx)
  exact h.writeReturn _ ha hf

/-! ## The step keeps a state sound, and has a next state -/

theorem Sound.withWorld {s : State} (h : Sound s) (turns : List Turn) : Sound { s with world := turns } := { h with }

theorem StepEffect.sound {turn : Turn} {s t : State} (he : StepEffect turn s t) (h : Sound s) : Sound t := by
  cases he with
  | nothing ht => exact ht ▸ h
  | presented w _ ht => exact ht ▸ { h with }
  | stored v _ ht => exact ht ▸ { h with }
  | late ofKind ht => exact ht ▸ h.discardLate ofKind
  | reset _ ht => exact ht ▸ h.blockReset
  | accepted w rest hp hr ht =>
    have hrest : Sound { s with requests := rest } := { h with }
    exact ht ▸ hrest.accept hp _
  | read res i hp hd hf hx => exact h.exec_rdPend hp hd hf hx
  | wrote ret i hp hd ha hf hx => exact h.exec_wrPend hp hd ha hf hx

theorem Sound.step {s t : State} (h : Sound s) (hstep : step s = .next t) : Sound t := by
  obtain ⟨turn, turns, -, he⟩ := step_cases s t hstep
  exact he.sound (h.withWorld turns)

/-- Every turn has a next state: the latches of an operation in progress decode, and only a SET waits for a write. -/
theorem Sound.exists_step {s : State} (h : Sound s) : ∃ t, Machine.step s = .next t := by
  obtain ⟨turn, turns, -, he⟩ := fetch_effect s
  have hworld := h.withWorld turns
  rw [Machine.step]
  generalize fetch s = action at he
  cases he with
  | accepted w rest i hp hr hd => exact ⟨_, exec_idle i _ hp⟩
  | read res i hp hd hf =>
    obtain ⟨onLegal, ha⟩ := Machine.exec_rdPend i
    exact ⟨_, ha _ hp⟩
  | wrote ret i hp hd ha hf =>
    have hop := hworld.latched_op_of_wrPend hp hd
    obtain ⟨st, hst, -⟩ := exec_set i hop
    exact ⟨_, exec_set_wrPend hop hst hp⟩
  | unsound e hp hd =>
    obtain ⟨i, hi⟩ := hworld.exists_latched hp
    simp [hd] at hi
  | _ => exact ⟨_, rfl⟩

theorem Sound.exists_run {s : State} (h : Sound s) (n : Nat) : ∃ t, runFor n s = .next t ∧ Sound t := by
  induction n generalizing s with
  | zero => exact ⟨s, rfl, h⟩
  | succ n ih =>
    obtain ⟨u, hu⟩ := h.exists_step
    obtain ⟨t, ht, hsound⟩ := ih (h.step hu)
    exact ⟨t, (runFor_succ n s u hu).trans ht, hsound⟩

/-! ## What a step does to the histories and to REG -/

/-- The configuration and the widths are those of `s`, and the two histories are those of `s` with at most one response
and one call more (10_state.md section 9). -/
def ExtendsHistories (s t : State) : Prop :=
  t.cfg = s.cfg ∧ t.widths = s.widths ∧ s.responses <:+ t.responses ∧ s.calls <:+ t.calls ∧
    t.responses.length ≤ s.responses.length + 1 ∧ t.calls.length ≤ s.calls.length + 1

/-- A change of anything else leaves the histories as they are. -/
theorem ExtendsHistories.of_eq {s t : State} (hcfg : t.cfg = s.cfg) (hwidths : t.widths = s.widths)
    (hresponses : t.responses = s.responses) (hcalls : t.calls = s.calls) : ExtendsHistories s t := by
  simp [ExtendsHistories, hcfg, hwidths, hresponses, hcalls]

theorem ExtendsHistories.respond (r : Response) (s : State) : ExtendsHistories s (respond r s) := by
  simp [ExtendsHistories]

theorem ExtendsHistories.issueRead (s : State) : ExtendsHistories s (issueRead s) := by
  simp [ExtendsHistories]

theorem ExtendsHistories.issueWrite (v : Byte) (s : State) : ExtendsHistories s (issueWrite v s) := by
  simp [ExtendsHistories]

theorem ExtendsHistories.accept (r : Request) (s : State) : ExtendsHistories s (accept r s) := by
  rcases accept_cases r s with ⟨-, ha⟩ | ⟨-, -, -, ha⟩ | ⟨-, -, ha⟩
  · exact ha ▸ .respond _ s
  · exact ha ▸ .respond _ s
  · exact ha ▸ ExtendsHistories.issueRead (latch r s)

theorem ExtendsHistories.readReturn {onLegal : Byte → State → State}
    (hlegal : ∀ b t, ExtendsHistories t (onLegal b t)) (s : State) :
    ExtendsHistories s (readReturn onLegal s) := by
  rcases readReturn_cases onLegal s with ⟨-, hr⟩ | ⟨e, -, hr⟩ | ⟨b, -, -, hr⟩ | ⟨b, -, -, hr⟩
  · rw [hr]
    exact .of_eq rfl rfl rfl rfl
  · exact hr ▸ ExtendsHistories.respond _ { s with rdPort := none }
  · exact hr ▸ hlegal b { s with rdPort := none, rdByte := b }
  · exact hr ▸ ExtendsHistories.respond _ { s with rdPort := none, rdByte := b }

theorem ExtendsHistories.writeReturn (sent : Byte) (s : State) : ExtendsHistories s (writeReturn sent s) := by
  rcases writeReturn_cases sent s with ⟨-, hr⟩ | ⟨ret, a, -, -, hr⟩ | ⟨ret, e, -, -, hr⟩
  · rw [hr]
    exact .of_eq rfl rfl rfl rfl
  all_goals
    obtain ⟨v, n, hdev⟩ := deviceAfterWrite_spec sent ret { s with wrPort := none }
    rw [hr, hdev]
    exact ExtendsHistories.respond _ { s with wrPort := none, reg := v, draws := n }

theorem ExtendsHistories.exec {i : Instr} {s t : State} (hx : exec i s = .next t) : ExtendsHistories s t := by
  rcases bit_eq_zero_or_one i.request.op with h0 | h1
  · obtain ⟨answer, ha⟩ := exec_get i h0
    rw [ha, getOperation] at hx
    cases hp : s.phase <;> simp only [hp, Host.Outcome.next.injEq, reduceCtorEq] at hx
    case idle => exact hx ▸ .accept _ s
    case rdPend => exact hx ▸ .readReturn (fun b u => .respond _ u) s
  · obtain ⟨st, -, ha⟩ := exec_set i h1
    rw [ha, setOperation] at hx
    cases hp : s.phase <;> simp only [hp, Host.Outcome.next.injEq] at hx
    case idle => exact hx ▸ .accept _ s
    case rdPend => exact hx ▸ .readReturn (fun b u => .issueWrite _ u) s
    case wrPend => exact hx ▸ .writeReturn _ s

theorem StepEffect.extendsHistories {turn : Turn} {s t : State} (he : StepEffect turn s t) : ExtendsHistories s t := by
  cases he with
  | nothing ht => exact ht ▸ .of_eq rfl rfl rfl rfl
  | presented w _ ht => exact ht ▸ .of_eq rfl rfl rfl rfl
  | stored v _ ht => exact ht ▸ .of_eq rfl rfl rfl rfl
  | late ofKind ht => exact ht ▸ .of_eq rfl rfl rfl rfl
  | reset _ ht =>
    obtain ⟨r, b, v, n, -, hreset⟩ := blockReset_spec s
    exact ht ▸ hreset ▸ .of_eq rfl rfl rfl rfl
  | accepted w rest hp hr ht => exact ht ▸ ExtendsHistories.accept _ { s with requests := rest }
  | read res i hp hd hf hx => exact ExtendsHistories.exec (s := { s with rdPort := some res }) hx
  | wrote ret i hp hd ha hf hx => exact ExtendsHistories.exec (s := { s with wrPort := some ret }) hx

theorem accept_reg (r : Request) (s : State) : (accept r s).reg = s.reg := by
  rcases accept_cases r s with ⟨-, ha⟩ | ⟨-, -, -, ha⟩ | ⟨-, -, ha⟩ <;> simp [ha]

/-- What changes REG is another agent's write, or happens in WR_PEND (20_memory.md R36, R42). -/
theorem StepEffect.reg_changed {turn : Turn} {s t : State} (he : StepEffect turn s t) (hne : t.reg ≠ s.reg) :
    (∃ v, turn = .otherWrite v) ∨ s.phase = .wrPend := by
  by_contra! hnot
  obtain ⟨hturn, hphase⟩ := hnot
  refine hne ?_
  cases he with
  | nothing ht => rw [ht]
  | presented w _ ht => rw [ht]
  | stored v hv _ => exact absurd hv (hturn v)
  | late ofKind ht => rw [ht, discardLate_reg]
  | reset _ ht =>
    obtain ⟨r, b, v, n, hv, hreset⟩ := blockReset_spec s
    rw [ht, hreset]
    exact hv hphase
  | accepted w rest hp hr ht => rw [ht, accept_reg]
  | read res i hp hd hf hx => exact exec_rdPend_reg (s := { s with rdPort := some res }) hx hp
  | wrote ret i hp hd ha hf hx => exact absurd hp hphase

theorem defaultTurn_ne_otherWrite (s : State) (v : Byte) : defaultTurn s ≠ .otherWrite v := by
  rw [defaultTurn]
  split <;> simp

/-! ## The statements -/

/-- Settles O32, field by field. -/
theorem resetState : Obligations.ResetState :=
  fun _ _ _ => ⟨rfl, rfl, rfl, rfl, rfl, rfl, rfl, rfl, rfl⟩

/-- Settles O33: in IDLE, with empty ports and histories. -/
theorem resetIsSound : Obligations.ResetIsSound := ⟨sound_resetWith, sound_resetWith _ _ _⟩

/-- Settles O34, case by case of what a step can do. -/
theorem stepKeepsSound : Obligations.StepKeepsSound := fun _ _ => Sound.step

/-- Settles O35, by induction on the length of the run. -/
theorem soundStatesNeverStop : Obligations.SoundStatesNeverStop := fun _ n h => h.exists_run n

/-- Settles O36, case by case of what a step can do. -/
theorem configurationIsConstant : Obligations.ConfigurationIsConstant := by
  intro s t hstep
  obtain ⟨turn, turns, -, he⟩ := step_cases s t hstep
  exact he.extendsHistories

/-- Settles O37: the turn that stores another agent's byte is a listed one. -/
theorem onlyWritesChangeTheRegister : Obligations.OnlyWritesChangeTheRegister := by
  intro s t hstep hne
  obtain ⟨turn, turns, hw, he⟩ := step_cases s t hstep
  rcases he.reg_changed hne with ⟨v, rfl⟩ | hp
  · rcases hw with hlisted | ⟨-, -, hdefault⟩
    · exact .inl ⟨v, turns, hlisted⟩
    · exact absurd hdefault.symm (defaultTurn_ne_otherWrite s v)
  · exact .inr hp

end Sys2Proof.Machine
end

section
/-! Writes that fail, updates that are lost, results that come late (20_memory.md section 2, 70_reset_and_hazards.md):
the steps of a sound state in WR_PEND, whole runs through a reset, and the statements on them. -/

namespace Sys2Proof.Machine

/-! ## A write coming back to a sound state -/

/-- A failed write whose turn names the byte the device then holds leaves that byte (20_memory.md R36, R37). -/
theorem writeReturn_err_held (sent : Byte) {s : State} {e : ErrPayload} {v : Byte}
    (hw : s.wrPort = some { result := .err e, held := some v }) :
    writeReturn sent s = raise (.transportError e) { s with wrPort := none, reg := v } := by
  simp only [writeReturn, hw, answerWrite, deviceAfterWrite]

/-- In WR_PEND the latches of a sound state hold a SET (10_state.md R25). -/
theorem Sound.exists_latched_set {s : State} (h : Sound s) (hp : s.phase = .wrPend) :
    ∃ i, decode (latchedWord s) = .ok i ∧ isSet i = true := by
  obtain ⟨i, hd⟩ := h.exists_latched (by simp [hp])
  exact ⟨i, hd, (isSet_iff_op i).mpr (h.latched_op_of_wrPend hp hd)⟩

/-- A failed write, with a payload of the port's width, and the byte the device then holds. -/
theorem step_writeFailure_held {s : State} {i : Instr} {e : ErrPayload} {v : Byte} {turns : List Turn}
    (hp : s.phase = .wrPend) (hd : decode (latchedWord s) = .ok i) (hset : isSet i = true)
    (he : e < 2 ^ s.widths.errW) (hw : s.world = .writeReturn { result := .err e, held := some v } :: turns) :
    step s = .next { s with
      world := turns, wrPort := none, reg := v, phase := .idle,
      responses := .failed (.transportError e) :: s.responses } := by
  have hstep := step_of_writeTurn (ret := { result := .err e, held := some v }) hp hw hd rfl
  have hop := (isSet_iff_op i).mp hset
  obtain ⟨st, hst, -⟩ := exec_set i hop
  rw [adaptWrite_err he] at hstep
  refine hstep.trans ((exec_set_wrPend hop hst ?_).trans (congrArg _ (writeReturn_err_held _ ?_)))
  · exact hp
  · rfl

/-- The ideal device's answer to the write of a SET: the byte made from `RD_BYTE` is stored and answered (20_memory.md
R35). -/
theorem step_writeIdeal {s : State} {i : Instr} {st : RelayState} {turns : List Turn} (hp : s.phase = .wrPend)
    (hd : decode (latchedWord s) = .ok i) (hset : isSet i = true) (hst : stateOf s.reqSt = some st)
    (hw : s.world = .writeIdeal :: turns) :
    step s = .next (respond (.okSet (newByte s.rdByte s.reqAll s.reqIdx st) (onWires s.widths.ackW 1))
      { s with world := turns, wrPort := none, reg := newByte s.rdByte s.reqAll s.reqIdx st }) := by
  have hreq := latched_request s i hd
  have hst' : stateOf i.request.st = some st := by rw [hreq, hst]
  have hstep := (step_of_writeTurn (ret := idealWrite) hp hw hd rfl).trans
    (exec_set_acked ((isSet_iff_op i).mp hset) hst' hp rfl)
  rw [hreq] at hstep
  exact hstep

/-! ## A reset and the next operation -/

/-- The call outstanding is the one the phase names (10_state.md R12). -/
theorem Sound.outstanding_of_rdPend {s : State} (h : Sound s) (hp : s.phase = .rdPend) :
    outstanding s = [.read s.cfg] := by
  simp only [outstanding, hp, h.read_outstanding hp, Option.toList_some]

theorem Sound.outstanding_of_wrPend {s : State} (h : Sound s) (hp : s.phase = .wrPend) :
    ∃ v, outstanding s = [.write s.cfg v] := by
  obtain ⟨i, hd, hset⟩ := h.exists_latched_set hp
  obtain ⟨st, hst, -⟩ := exec_set i ((isSet_iff_op i).mp hset)
  rw [latched_request s i hd] at hst
  exact ⟨_, by simp only [outstanding, hp, h.write_outstanding hp st hst, Option.toList_some]; rfl⟩

/-- Two steps from IDLE of a SET whose read returns a legal byte: the write of what the encoder makes of that byte is
outstanding (42_set.md section 4). -/
theorem runFor_two_of_set {s : State} {w : ReqWord} {i : Instr} {st : RelayState} {rest : List ReqWord} {b : Byte}
    {turns : List Turn} (hp : s.phase = .idle) (hr : s.requests = w :: rest) (hd : decode w = .ok i)
    (hset : isSet i = true) (hst : stateOf i.request.st = some st) (hb : legal b = true)
    (hw : s.world = .accept :: .readReturn (.byte b) :: turns) :
    runFor 2 s = .next (writeIssued i rest turns b (newByte b i.request.all i.request.idx st) s) := by
  have hx := writesAfterLegalByte_of_set st ((isSet_iff_op i).mp hset) hst
    { operationBegun i rest turns s with rdPort := some (.val b) } b rfl rfl ((legal_iff_highNibble b).mp hb)
  exact runFor_two_of_readReturn hp hr hd hw hx

/-! ## The statements -/

/-- Settles O22: only a write changes REG, and the turn that fails it may name the byte the device then holds. -/
theorem failedWriteLosesTheRegister : Obligations.FailedWriteLosesTheRegister := by
  refine ⟨fun s t e turns hw hstep => ?_, fun s e v hs hp he hw => ?_, fun s e hs hp he hw => ?_⟩
  · by_contra hne
    rcases onlyWritesChangeTheRegister s t hstep hne with ⟨v, turns', hstored⟩ | hp
    · simp [hw] at hstored
    · rw [step_readReturn_unawaited (by simp [hp]) hw] at hstep
      exact hne (Host.Outcome.next.inj hstep ▸ rfl)
  · obtain ⟨i, hd, hset⟩ := hs.exists_latched_set hp
    rw [step_writeFailure_held hp hd hset he hw, hs.ports_empty.2]
  · obtain ⟨i, hd, hset⟩ := hs.exists_latched_set hp
    obtain ⟨v, n, hstep⟩ := step_writeFailure hp hd hset he hw
    exact ⟨v, n, by rw [hstep, hs.ports_empty.2]⟩

/-- Settles O44: the byte sent was made from `RD_BYTE`, which the other agent's write does not reach. -/
theorem updateInTheWindowIsLost : Obligations.UpdateInTheWindowIsLost := by
  intro s st v hs hp hst hw
  obtain ⟨i, hd, hset⟩ := hs.exists_latched_set hp
  have hstored := anotherAgentWritesAtAnyInstant s v [.writeIdeal] hw
  have hwrite := step_writeIdeal (s := { s with world := [.writeIdeal], reg := v }) hp hd hset hst rfl
  exact ⟨_, (runFor_succ 1 _ _ hstored).trans (runFor_succ 0 _ _ hwrite), rfl, rfl⟩

/-- Settles O46: the reset abandons exactly the call outstanding, and the late result takes exactly that one back. -/
theorem lateResultLeavesTheNewOperation : Obligations.LateResultLeavesTheNewOperation := by
  constructor
  · intro s w i rest raw own turns hs hp hnone hr hd hw
    obtain ⟨u, hreset, hidle, -, -, hresponses, hcalls, habandoned, hcfg, hrequests, hworld, hreg⟩ :=
      blockResetAbandonsTheOperation.1 s _ hw
    obtain ⟨-, hwidths, -⟩ := configurationIsConstant s u hreset
    have haccept := step_accept_legal hidle (hrequests.trans hr) hd hworld
    have hlate := step_lateRead (s := operationBegun i rest (.lateRead raw :: .readReturn own :: turns) u) rfl
    have hlatched := decode_latchedWord_of_request (s := operationBegun i rest (.readReturn own :: turns) u) hd rfl
    have hrun := (runFor_succ 2 _ _ hreset).trans ((runFor_succ 1 _ _ haccept).trans (runFor_succ 0 _ _ hlate))
    refine ⟨_, hrun, rfl, hresponses, hreg (by simp [hp]), ?_, ?_, rfl, hlatched, ?_⟩
    · show u.abandoned.eraseP Call.isRead = []
      rw [habandoned, hnone, hs.outstanding_of_rdPend hp]
      rfl
    · show Call.read u.cfg :: u.calls = .read s.cfg :: s.calls
      rw [hcfg, hcalls]
    · rw [← hwidths]
      exact step_of_readTurn rfl rfl hlatched rfl
  · intro s w i st rest b late own turns hs hp hnone hr hd hset hst hb hw
    obtain ⟨u, hreset, hidle, -, -, hresponses, hcalls, habandoned, hcfg, hrequests, hworld, -⟩ :=
      blockResetAbandonsTheOperation.1 s _ hw
    obtain ⟨-, hwidths, -⟩ := configurationIsConstant s u hreset
    obtain ⟨v, hv⟩ := hs.outstanding_of_wrPend hp
    have hbegun := runFor_two_of_set hidle (hrequests.trans hr) hd hset hst hb hworld
    have hlate := step_lateWrite (s := writeIssued i rest (.lateWrite late :: .writeReturn own :: turns) b
      (newByte b i.request.all i.request.idx st) u) rfl
    have hlatched := decode_latchedWord_of_request (s := writeIssued i rest (.writeReturn own :: turns) b
      (newByte b i.request.all i.request.idx st) u) hd rfl
    have hrun := (runFor_succ 3 _ _ hreset).trans ((runFor_add 2 1 _ _ hbegun).trans (runFor_succ 0 _ _ hlate))
    refine ⟨_, hrun, rfl, hresponses, ?_, ?_, rfl, hlatched, ?_⟩
    · show u.abandoned.eraseP Call.isWrite = []
      rw [habandoned, hnone, hv]
      rfl
    · show Call.write u.cfg _ :: .read u.cfg :: u.calls = .write s.cfg _ :: .read s.cfg :: s.calls
      rw [hcfg, hcalls]
    · rw [← hwidths]
      exact step_of_writeTurn rfl rfl hlatched rfl

end Sys2Proof.Machine
end

section
/-! What the latches hold between operations (10_state.md sections 1, 2 and 10): two states that differ only in latches no
event reads before writing them go the same way turn by turn, and the statement on it. -/

namespace Sys2Proof.Machine

open Host

/-! ## States that differ in unread latches -/

/-- The five latches overwritten. -/
def relatch (r : Request) (b : Byte) (s : State) : State := { latch r s with rdByte := b }

/-- Two such states differ in nothing but the latches. -/
theorem SameButUnread.eq_relatch {s t : State} (h : SameButUnread s t) :
    t = relatch { op := t.reqOp, st := t.reqSt, all := t.reqAll, idx := t.reqIdx } t.rdByte s := by
  obtain ⟨hphase, -, -, ⟨hreg, hcfg, hwidths⟩, ⟨hrd, hwr⟩, ⟨hreq, hresp, hcalls, hab⟩, ⟨hworld, htr, hdraws⟩⟩ := h
  cases t
  simp only at hphase hreg hcfg hwidths hrd hwr hreq hresp hcalls hab hworld htr hdraws
  subst hphase hreg hcfg hwidths hrd hwr hreq hresp hcalls hab hworld htr hdraws
  rfl

/-- In RD_PEND they differ in `RD_BYTE` alone. -/
theorem SameButUnread.eq_of_rdPend {s t : State} (h : SameButUnread s t) (hp : s.phase = .rdPend) :
    t = { s with rdByte := t.rdByte } := by
  obtain ⟨hop, hall, hidx, hst⟩ := h.latches (by simp [hp])
  have ht := h.eq_relatch
  rw [hop, hall, hidx, hst] at ht
  exact ht

/-- In WR_PEND they are the same. -/
theorem SameButUnread.eq_of_wrPend {s t : State} (h : SameButUnread s t) (hp : s.phase = .wrPend) : t = s := by
  obtain ⟨hop, hall, hidx, hst⟩ := h.latches (by simp [hp])
  have ht := h.eq_relatch
  rw [hop, hall, hidx, hst, h.rdByte hp] at ht
  exact ht

theorem sameButUnread_refl (s : State) : SameButUnread s s where
  phase := rfl
  latches := fun _ => ⟨rfl, rfl, rfl, rfl⟩
  rdByte := fun _ => rfl
  device := ⟨rfl, rfl, rfl⟩
  ports := ⟨rfl, rfl⟩
  interface := ⟨rfl, rfl, rfl, rfl⟩
  environment := ⟨rfl, rfl, rfl⟩

/-- In IDLE no latch is read before it is written. -/
theorem sameButUnread_relatch {s : State} (hp : s.phase = .idle) (r : Request) (b : Byte) :
    SameButUnread s (relatch r b s) :=
  { sameButUnread_refl s with
    latches := fun hne => absurd hp hne
    rdByte := fun hw => by simp [hp] at hw }

/-- In RD_PEND `RD_BYTE` is not read before it is written. -/
theorem sameButUnread_withRdByte {s : State} (hp : s.phase = .rdPend) (b : Byte) :
    SameButUnread s { s with rdByte := b } :=
  { sameButUnread_refl s with rdByte := fun hw => by simp [hp] at hw }

/-! ## The operations do not tell them apart -/

/-- ACCEPT writes the four request latches, or ends in IDLE (10_state.md R25). -/
theorem SameButUnread.accept {s t : State} (h : SameButUnread s t) (q : Request) :
    SameButUnread (accept q s) (accept q t) := by
  obtain ⟨r, b, rfl⟩ : ∃ r b, t = relatch r b s := ⟨_, _, h.eq_relatch⟩
  unfold Machine.accept
  split
  · split
    · exact sameButUnread_relatch (s := raise .invalidState s) rfl r b
    · exact sameButUnread_withRdByte (s := issueRead (latch q s)) rfl b
  · exact sameButUnread_relatch (s := raise .invalidChannel s) rfl r b

/-- READ_RETURN writes `RD_BYTE`, or ends in IDLE (10_state.md R25). -/
theorem sameButUnread_readReturn (onLegal : Byte → State → State) {s : State} {res : ReadResult} (b : Byte)
    (hres : s.rdPort = some res) :
    SameButUnread (readReturn onLegal s) (readReturn onLegal { s with rdByte := b }) := by
  cases res with
  | err e =>
    rw [readReturn_err onLegal hres, readReturn_err onLegal (s := { s with rdByte := b }) hres]
    exact sameButUnread_relatch (s := raise (.transportError e) { s with rdPort := none }) rfl
      { op := s.reqOp, st := s.reqSt, all := s.reqAll, idx := s.reqIdx } b
  | val v =>
    have heq : readReturn onLegal { s with rdByte := b } = readReturn onLegal s := by
      simp only [readReturn, hres]
    rw [heq]
    exact sameButUnread_refl _

/-- A reset of the block writes every latch (70_reset_and_hazards.md R130). -/
theorem blockReset_relatch (r : Request) (b : Byte) (s : State) : blockReset (relatch r b s) = blockReset s := by
  have hphase : (relatch r b s).phase = s.phase := rfl
  unfold blockReset
  rw [hphase]
  split <;> rfl

/-! ## The turns do not tell them apart -/

/-- What an action comes to. -/
def Action.outcome : Action → Outcome State Fault Refusal
  | .run i s => exec i s
  | .done o => o

theorem step_eq_outcome (s : State) : step s = (fetch s).outcome := by
  rw [step]
  cases fetch s <;> rfl

/-- A next state of the first action is matched by one of the second that differs only in unread latches. -/
def Action.MatchedBy (a a' : Action) : Prop :=
  ∀ s', a.outcome = .next s' → ∃ t', a'.outcome = .next t' ∧ SameButUnread s' t'

theorem Action.matchedBy_of_next {a a' : Action} {s t : State} (ha : a.outcome = .next s) (ha' : a'.outcome = .next t)
    (h : SameButUnread s t) : a.MatchedBy a' := by
  intro s' hs'
  obtain rfl : s = s' := Outcome.next.inj (ha.symm.trans hs')
  exact ⟨t, ha', h⟩

theorem Action.matchedBy_refl (a : Action) : a.MatchedBy a := fun s' hs' => ⟨s', hs', sameButUnread_refl s'⟩

/-- A result that none awaits is discarded, whatever the latches hold. -/
theorem SameButUnread.discardLate {s t : State} (h : SameButUnread s t) (ofKind : Call → Bool) :
    SameButUnread (discardLate ofKind s) (discardLate ofKind t) :=
  { h with interface := by simp [h.interface] }

/-- ACCEPT of any word comes to the event of its request, whether it is a form's or illegal (30_encoding.md R57). -/
theorem acceptTurn_outcome {s : State} {w : ReqWord} {rest : List ReqWord} (hp : s.phase = .idle)
    (hr : s.requests = w :: rest) :
    (acceptTurn s).outcome = .next (accept (Request.ofWord w) { s with requests := rest }) := by
  rcases hd : decode w with i | e
  · rw [acceptTurn_legal hp hr hd, ← decode_request w i hd]
    exact exec_idle i _ hp
  · rw [acceptTurn_illegal hp hr hd]
    rfl

theorem SameButUnread.acceptTurn {s t : State} (h : SameButUnread s t) :
    (acceptTurn s).MatchedBy (acceptTurn t) := by
  obtain ⟨hrequests, -⟩ := h.interface
  by_cases hp : s.phase = .idle
  · rcases hr : s.requests with _ | ⟨w, rest⟩
    · rw [acceptTurn_no_request hr, acceptTurn_no_request (hrequests.trans hr)]
      exact Action.matchedBy_of_next rfl rfl h
    · have htaken : SameButUnread { s with requests := rest } { t with requests := rest } :=
        { h with interface := ⟨rfl, h.interface.2⟩ }
      exact Action.matchedBy_of_next (acceptTurn_outcome hp hr)
        (acceptTurn_outcome (h.phase.trans hp) (hrequests.trans hr)) (htaken.accept _)
  · rw [acceptTurn_busy hp, acceptTurn_busy (h.phase ▸ hp)]
    exact Action.matchedBy_of_next rfl rfl h

theorem SameButUnread.readTurn {s t : State} (h : SameButUnread s t) (res : ReadResult) :
    (readTurn res s).MatchedBy (readTurn res t) := by
  by_cases hp : s.phase = .rdPend
  · obtain ⟨b, rfl⟩ : ∃ b, t = { s with rdByte := b } := ⟨_, h.eq_of_rdPend hp⟩
    rcases hd : decode (latchedWord s) with i | e
    · obtain ⟨onLegal, ha⟩ := exec_rdPend i
      rw [readTurn_awaited res hp hd, readTurn_awaited (s := { s with rdByte := b }) res hp hd]
      exact Action.matchedBy_of_next (ha { s with rdPort := some res } hp)
        (ha { s with rdByte := b, rdPort := some res } hp)
        (sameButUnread_readReturn onLegal (s := { s with rdPort := some res }) b rfl)
    · rw [readTurn_not_legal res hp hd, readTurn_not_legal (s := { s with rdByte := b }) res hp hd]
      exact Action.matchedBy_refl _
  · rw [readTurn_unawaited res hp, readTurn_unawaited res (h.phase ▸ hp)]
    exact Action.matchedBy_of_next rfl rfl (h.discardLate _)

theorem SameButUnread.writeTurn {s t : State} (h : SameButUnread s t) (ret : WriteReturn) :
    (writeTurn ret s).MatchedBy (writeTurn ret t) := by
  by_cases hp : s.phase = .wrPend
  · rw [h.eq_of_wrPend hp]
    exact Action.matchedBy_refl _
  · rw [writeTurn_unawaited ret hp, writeTurn_unawaited ret (h.phase ▸ hp)]
    exact Action.matchedBy_of_next rfl rfl (h.discardLate _)

theorem SameButUnread.takeTurn {s t : State} (h : SameButUnread s t) (turn : Turn) :
    (takeTurn turn s).MatchedBy (takeTurn turn t) := by
  obtain ⟨hreg, -, hwidths⟩ := h.device
  cases turn with
  | present w => exact Action.matchedBy_of_next rfl rfl { h with interface := by simp [h.interface] }
  | accept => exact h.acceptTurn
  | readReturn raw =>
    simp only [Machine.takeTurn, hwidths]
    exact h.readTurn _
  | readIdeal =>
    simp only [Machine.takeTurn, idealRead, hreg]
    exact h.readTurn _
  | lateRead raw => exact Action.matchedBy_of_next rfl rfl (h.discardLate _)
  | writeReturn ret => exact h.writeTurn _
  | writeIdeal => exact h.writeTurn _
  | lateWrite result => exact Action.matchedBy_of_next rfl rfl (h.discardLate _)
  | otherWrite v => exact Action.matchedBy_of_next rfl rfl { h with device := ⟨rfl, h.device.2⟩ }
  | blockReset =>
    refine Action.matchedBy_of_next rfl rfl ?_
    rw [h.eq_relatch, blockReset_relatch]
    exact sameButUnread_refl _
  | wait => exact Action.matchedBy_of_next rfl rfl h

theorem SameButUnread.step {s t s' : State} (h : SameButUnread s t) (hs : step s = .next s') :
    ∃ t', step t = .next t' ∧ SameButUnread s' t' := by
  obtain ⟨hworld, htransport, -⟩ := h.environment
  have hfetch : (fetch s).MatchedBy (fetch t) := by
    rcases hw : s.world with _ | ⟨turn, turns⟩
    · have hdefault : defaultTurn t = defaultTurn s := by
        rw [defaultTurn, defaultTurn, h.phase, htransport]
      rw [fetch_unlisted hw, fetch_unlisted (hworld.trans hw), hdefault]
      exact h.takeTurn _
    · rw [fetch_listed hw, fetch_listed (hworld.trans hw)]
      have hused : SameButUnread { s with world := turns } { t with world := turns } :=
        { h with environment := ⟨rfl, h.environment.2⟩ }
      exact hused.takeTurn turn
  rw [step_eq_outcome] at hs ⊢
  exact hfetch s' hs

/-! ## The statement -/

/-- Settles O38, by induction on the length of the run: a step keeps the relation. -/
theorem nothingIsKeptBetweenOperations : Obligations.NothingIsKeptBetweenOperations := by
  intro s t n
  induction n generalizing s t with
  | zero =>
    intro h s' hs'
    obtain rfl : s = s' := Outcome.next.inj hs'
    exact ⟨t, rfl, h⟩
  | succ n ih =>
    intro h s' hs'
    rcases hu : step s with u | r | r
    · obtain ⟨v, hv, huv⟩ := h.step hu
      rw [runFor_succ n s u hu] at hs'
      rw [runFor_succ n t v hv]
      exact ih u v huv s' hs'
    · simp [runFor, hu] at hs'
    · simp [runFor, hu] at hs'

end Sys2Proof.Machine
end

section
/-! Whole operations under the ideal device with no other agent (20_memory.md R35): the default turns, the runs of a
GET and of a SET, read-back, the lock-out by an illegal register byte, and the statements on them. -/

namespace Sys2Proof.Machine

open Host

/-! ## The default turns -/

theorem step_of_takeTurn {s : State} {turn : Turn} (hw : s.world = []) (hd : defaultTurn s = turn) :
    step s = (takeTurn turn s).outcome := by
  rw [step_eq_outcome, fetch_unlisted hw, hd]

theorem defaultTurn_idle {s : State} (hp : s.phase = .idle) : defaultTurn s = .accept := by
  simp only [defaultTurn, hp]

theorem defaultTurn_rdPend {s : State} (hp : s.phase = .rdPend) (ht : s.transport = .ideal) :
    defaultTurn s = .readIdeal := by
  simp only [defaultTurn, hp, ht]

theorem defaultTurn_wrPend {s : State} (hp : s.phase = .wrPend) (ht : s.transport = .ideal) :
    defaultTurn s = .writeIdeal := by
  simp only [defaultTurn, hp, ht]

/-- In IDLE, with no turn listed, the first waiting word is accepted (70_reset_and_hazards.md R142). -/
theorem step_unlisted_accept {s : State} {w : ReqWord} {rest : List ReqWord} (hp : s.phase = .idle) (hw : s.world = [])
    (hr : s.requests = w :: rest) : step s = .next (accept (Request.ofWord w) { s with requests := rest }) :=
  (step_of_takeTurn hw (defaultTurn_idle hp)).trans (acceptTurn_outcome hp hr)

theorem step_unlisted_no_request {s : State} (hp : s.phase = .idle) (hw : s.world = []) (hr : s.requests = []) :
    step s = .next s := by
  rw [step_of_takeTurn hw (defaultTurn_idle hp), takeTurn, acceptTurn_no_request hr]
  rfl

/-- The ideal device answers a read with REG (20_memory.md R35). -/
theorem step_ideal_read {s : State} {i : Instr} (hp : s.phase = .rdPend) (hu : Undisturbed s)
    (hd : decode (latchedWord s) = .ok i) : step s = exec i { s with rdPort := some (.val s.reg) } := by
  obtain ⟨hw, ht⟩ := hu
  rw [step_of_takeTurn hw (defaultTurn_rdPend hp ht), takeTurn, readTurn_awaited _ hp hd]
  rfl

/-- The ideal device acknowledges a write with `Ack(1)` (20_memory.md R35). -/
theorem step_ideal_write {s : State} {i : Instr} (hp : s.phase = .wrPend) (hu : Undisturbed s)
    (hd : decode (latchedWord s) = .ok i) :
    step s = exec i { s with wrPort := some { result := .ack (onWires s.widths.ackW 1), held := none } } := by
  obtain ⟨hw, ht⟩ := hu
  rw [step_of_takeTurn hw (defaultTurn_wrPend hp ht), takeTurn, writeTurn_awaited _ hp hd]
  rfl

/-! ## Whole operations -/

/-- ACCEPT of a legal word with no turn listed begins its operation. -/
theorem step_unlisted_begins {s : State} {w : ReqWord} {i : Instr} {rest : List ReqWord} (hp : s.phase = .idle)
    (hw : s.world = []) (hr : s.requests = w :: rest) (hd : decode w = .ok i) :
    step s = .next (operationBegun i rest [] s) := by
  obtain ⟨hc, hs⟩ := decodeRequest_ok_valid _ _ hd
  rw [step_unlisted_accept hp hw hr, accept_of_valid _ hc hs, operationBegun, decode_request w i hd, ← hw]

/-- The first two steps of an operation: its form meets REG's byte in the state ACCEPT left. -/
theorem runFor_two_of_ideal_read {s t : State} {w : ReqWord} {i : Instr} {rest : List ReqWord} (hp : s.phase = .idle)
    (hu : Undisturbed s) (hr : s.requests = w :: rest) (hd : decode w = .ok i)
    (hx : exec i { operationBegun i rest [] s with rdPort := some (.val s.reg) } = .next t) :
    runFor 2 s = .next t := by
  have hread := step_ideal_read (s := operationBegun i rest [] s) rfl ⟨rfl, hu.2⟩
    (decode_latchedWord_of_request hd rfl)
  exact (runFor_succ 1 _ _ (step_unlisted_begins hp hu.1 hr hd)).trans (runFor_succ 0 _ _ (hread.trans hx))

/-- What a GET form answers to a legal byte: the vector for ALL, the state at register bit `3 - ch` for a channel
(41_get.md R84, R85). -/
def getAnswer (i : Instr) (b : Byte) : Response :=
  if i.request.all = 1#1 then .okGetAll (decodeStates b)
  else .okGetOne (if b.getLsbD (3 - i.request.idx.toNat) then .off else .on)

theorem exec_get_legal {i : Instr} {s : State} {b : Byte} (hwf : i.wellFormed = true) (hget : isSet i = false)
    (hp : s.phase = .rdPend) (hr : s.rdPort = some (.val b)) (hb : legal b = true) :
    exec i s = .next { s with
      rdPort := none, rdByte := b, phase := .idle, responses := getAnswer i b :: s.responses } := by
  have hnibble := (legal_iff_highNibble b).mp hb
  cases i
  case getCh idx st =>
    have hanswer : getAnswer (.getCh idx st) b = .okGetOne (selectOne (decodeStates b) idx) := by
      rw [selectOne_decodeStates b ((isOrdinal_iff idx).mp hwf)]
      rfl
    rw [hanswer]
    exact getOperation_legal _ _ hp hr hnibble
  case getAll idx st => exact getOperation_legal _ _ hp hr hnibble
  all_goals simp [isSet] at hget

/-- The third step of a SET: the byte sent is stored and acknowledged (20_memory.md R35). -/
theorem runFor_three_of_ideal_set {s : State} {w : ReqWord} {i : Instr} {st : RelayState} {rest : List ReqWord}
    (hp : s.phase = .idle) (hu : Undisturbed s) (hr : s.requests = w :: rest) (hd : decode w = .ok i)
    (hset : isSet i = true) (hst : stateOf i.request.st = some st) (hb : legal s.reg = true) :
    runFor 3 s = .next
      (respond (.okSet (newByte s.reg i.request.all i.request.idx st) (onWires s.widths.ackW 1))
        { writeIssued i rest [] s.reg (newByte s.reg i.request.all i.request.idx st) s with
          wrPort := none, reg := newByte s.reg i.request.all i.request.idx st }) := by
  have hop := (isSet_iff_op i).mp hset
  have hx := writesAfterLegalByte_of_set st hop hst
    { operationBegun i rest [] s with rdPort := some (.val s.reg) } s.reg rfl rfl ((legal_iff_highNibble s.reg).mp hb)
  have hwrite := step_ideal_write
    (s := writeIssued i rest [] s.reg (newByte s.reg i.request.all i.request.idx st) s) rfl ⟨rfl, hu.2⟩
    (decode_latchedWord_of_request hd rfl)
  exact (runFor_add 2 1 _ _ (runFor_two_of_ideal_read hp hu hr hd hx)).trans
    (runFor_succ 0 _ _ (hwrite.trans (exec_set_acked hop hst rfl rfl)))

/-! ## Read-back -/

theorem setChannel_request (c : Fin 4) (st : RelayState) :
    (setChannel c st).request.all = 0#1 ∧ (setChannel c st).request.idx = BitVec.ofNat 8 c.val ∧
      stateOf (setChannel c st).request.st = some st := by
  cases st <;> exact ⟨rfl, rfl, rfl⟩

theorem setEvery_request (st : RelayState) :
    (setEvery st).request.all = 1#1 ∧ stateOf (setEvery st).request.st = some st := by
  cases st <;> exact ⟨rfl, rfl⟩

/-- After `SET c,st` the bit GET reads for channel `3 - c` is the one forced (42_set.md R101). -/
theorem newByte_channel_readBack (b : Byte) (c d : Fin 4) (st : RelayState) :
    (if (newByte b 0#1 (BitVec.ofNat 8 c.val) st).getLsbD (3 - d.val) then RelayState.off else .on) =
      if d.val = 3 - c.val then st else if b.getLsbD (3 - d.val) then .off else .on := by
  have hmirror : c.val = 3 - d.val ↔ d.val = 3 - c.val := by omega
  rw [newByte_getLsbD _ _ _ _ (by omega), mask_channel_getLsbD _ (by omega), toNat_ofNat_ordinal]
  simp only [decide_eq_true_iff, hmirror]
  by_cases hd : d.val = 3 - c.val
  · rw [if_pos hd, if_pos hd]
    cases st <;> rfl
  · rw [if_neg hd, if_neg hd]

/-- After `SET all,st` every bit GET reads is the one forced (42_set.md R101). -/
theorem newByte_all_readBack (b idx : Byte) (d : Fin 4) (st : RelayState) :
    (if (newByte b 1#1 idx st).getLsbD (3 - d.val) then RelayState.off else .on) = st := by
  rw [newByte_getLsbD _ _ _ _ (by omega), mask_all_getLsbD _ (by omega), decide_eq_true (by omega), if_pos rfl]
  cases st <;> rfl

theorem decodeStates_newByte_all (b idx : Byte) (st : RelayState) :
    decodeStates (newByte b 1#1 idx st) = #v[st, st, st, st] := by
  refine Vector.ext fun k hk => ?_
  have hget : (decodeStates (newByte b 1#1 idx st)).get ⟨k, hk⟩ = st := by
    rw [decodeStates_get_eq_ite]
    exact newByte_all_readBack b idx ⟨k, hk⟩ st
  rw [Vector.get_eq_getElem] at hget
  rw [hget]
  interval_cases k <;> rfl

/-! ## The statements of GET and SET -/

/-- Settles O40: the form meets REG's byte, and answers it. -/
theorem getUnderTheIdealDevice : Obligations.GetUnderTheIdealDevice := by
  intro s i rest hwf hget hp hu hr hport hb
  have hop := (isSet_eq_false_iff_op i).mp hget
  have hx := exec_get_legal (s := { operationBegun i rest [] s with rdPort := some (.val s.reg) }) hwf hget rfl rfl hb
  rw [runFor_two_of_ideal_read hp hu hr (decode_encode hwf) hx, hp, hport, hu.1, ← hop]
  rfl

/-- Settles O41: the write is made from REG's byte, stored and acknowledged. -/
theorem setUnderTheIdealDevice : Obligations.SetUnderTheIdealDevice := by
  intro s i st rest hwf hset hst hp hu hr hrd hwr hb
  have hop := (isSet_iff_op i).mp hset
  rw [runFor_three_of_ideal_set hp hu hr (decode_encode hwf) hset hst hb, hp, hrd, hwr, hu.1, ← hop]
  rfl

/-- A SET and then a GET: five steps, and the GET answers from the byte the SET wrote (42_set.md section 7). -/
theorem runFor_five_of_set_get {s : State} {i j : Instr} {st : RelayState} (hi : i.wellFormed = true)
    (hset : isSet i = true) (hst : stateOf i.request.st = some st) (hj : j.wellFormed = true) (hget : isSet j = false)
    (hp : s.phase = .idle) (hu : Undisturbed s) (hrd : s.rdPort = none) (hwr : s.wrPort = none)
    (hb : legal s.reg = true) :
    ∃ t, runFor 5 { s with requests := [encode i, encode j] } = .next t ∧
      t.responses.head? = some (getAnswer j (newByte s.reg i.request.all i.request.idx st)) := by
  have hlegal : legal (newByte s.reg i.request.all i.request.idx st) = true := by
    rw [Instr.wellFormed_eq_validChannel] at hi
    rw [legal_iff_highNibble, newByte_highNibble _ hi, ← legal_iff_highNibble, hb]
  have hfirst := setUnderTheIdealDevice { s with requests := [encode i, encode j] } i st [encode j] hi hset hst hp hu
    rfl hrd hwr hb
  refine ⟨_, (runFor_add 3 2 _ _ hfirst).trans (getUnderTheIdealDevice _ j [] hj hget ?_ ?_ ?_ ?_ ?_), rfl⟩
  · exact hp
  · exact hu
  · rfl
  · exact hrd
  · exact hlegal

/-- Settles O42: SET forces register bit `c`, which GET reads for channel `3 - c`. -/
theorem readBackAfterSet : Obligations.ReadBackAfterSet := by
  intro s c d st hp hu hrd hwr hb
  obtain ⟨hall, hidx, hst⟩ := setChannel_request c st
  obtain ⟨hevery, hst'⟩ := setEvery_request st
  have hc : (setChannel c st).wellFormed = true ∧ isSet (setChannel c st) = true := by
    cases st <;> exact ⟨isOrdinal_ofNat c, rfl⟩
  have he : (setEvery st).wellFormed = true ∧ isSet (setEvery st) = true := by
    cases st <;> exact ⟨rfl, rfl⟩
  have hanswer : ∀ b, getAnswer (getChannel d) b = .okGetOne (if b.getLsbD (3 - d.val) then .off else .on) := by
    intro b
    rw [← toNat_ofNat_ordinal d]
    rfl
  refine ⟨?_, ?_, ?_⟩
  · obtain ⟨t, hrun, hhead⟩ := runFor_five_of_set_get (j := getChannel d) hc.1 hc.2 hst (isOrdinal_ofNat d) rfl hp hu
      hrd hwr hb
    refine ⟨t, hrun, ?_⟩
    rw [hhead, hanswer, hall, hidx, newByte_channel_readBack]
  · obtain ⟨t, hrun, hhead⟩ := runFor_five_of_set_get (j := getChannel d) he.1 he.2 hst' (isOrdinal_ofNat d) rfl hp hu
      hrd hwr hb
    refine ⟨t, hrun, ?_⟩
    rw [hhead, hanswer, hevery, newByte_all_readBack]
  · obtain ⟨t, hrun, hhead⟩ := runFor_five_of_set_get (j := .getAll 0x00#8 0b00#2) he.1 he.2 hst' rfl rfl hp hu hrd hwr
      hb
    refine ⟨t, hrun, ?_⟩
    rw [hhead, hevery, ← decodeStates_newByte_all s.reg (setEvery st).request.idx st]
    rfl

/-! ## The lock-out -/

/-- Under the ideal device with no other agent, between operations or before the read of one comes back, with REG at `r`
and `writes` writes issued so far. -/
structure LockedOut (r : Byte) (writes : Nat) (s : State) : Prop where
  undisturbed : Undisturbed s
  before_write : s.phase = .idle ∨ s.phase = .rdPend ∧ ∃ i, decode (latchedWord s) = .ok i
  reg_eq : s.reg = r
  writes_eq : s.calls.countP Call.isWrite = writes

/-- An illegal byte in REG ends the operation that reads it. -/
theorem exec_of_illegal_reg (i : Instr) {s : State} {b : Byte} (hp : s.phase = .rdPend)
    (hr : s.rdPort = some (.val b)) (hb : legal b = false) :
    exec i s = .next { s with
      rdPort := none, rdByte := b, phase := .idle, responses := .failed .invalidRegisterByte :: s.responses } :=
  rejectsIllegalByte i s b hp hr fun hnibble => by simp [(legal_iff_highNibble b).mpr hnibble] at hb

theorem LockedOut.accept {r : Byte} {writes : Nat} {s : State} (h : LockedOut r writes s) (q : Request) :
    LockedOut r writes (accept q s) := by
  rcases accept_cases q s with ⟨-, ha⟩ | ⟨-, -, -, ha⟩ | ⟨hc, hs, ha⟩
  · exact ha ▸ { h with before_write := .inl rfl }
  · exact ha ▸ { h with before_write := .inl rfl }
  · obtain ⟨i, hi⟩ := decodeRequest_of_valid q hc hs
    have hlatched : decode (latchedWord (issueRead (latch q s))) = .ok i := by
      rw [decode, latchedWord, Request.ofWord_toWord]
      exact hi
    rw [ha]
    exact {
      undisturbed := h.undisturbed
      before_write := .inr ⟨rfl, i, hlatched⟩
      reg_eq := h.reg_eq
      writes_eq := by simp [Call.isWrite, h.writes_eq] }

/-- While REG is illegal no step reaches a write (70_reset_and_hazards.md R137). -/
theorem LockedOut.exists_step {r : Byte} {writes : Nat} {s : State} (h : LockedOut r writes s) (hr : legal r = false) :
    ∃ t, step s = .next t ∧ LockedOut r writes t := by
  rcases h.before_write with hp | ⟨hp, i, hd⟩
  · rcases hreq : s.requests with _ | ⟨w, rest⟩
    · exact ⟨s, step_unlisted_no_request hp h.undisturbed.1 hreq, h⟩
    · have htaken : LockedOut r writes { s with requests := rest } := { h with }
      exact ⟨_, step_unlisted_accept hp h.undisturbed.1 hreq, htaken.accept _⟩
  · have hx := exec_of_illegal_reg i (s := { s with rdPort := some (.val s.reg) }) hp rfl (h.reg_eq ▸ hr)
    exact ⟨_, (step_ideal_read hp h.undisturbed hd).trans hx, { h with before_write := .inl rfl }⟩

theorem LockedOut.exists_run {r : Byte} {writes : Nat} {s : State} (h : LockedOut r writes s) (hr : legal r = false)
    (n : Nat) : ∃ t, runFor n s = .next t ∧ LockedOut r writes t := by
  induction n generalizing s with
  | zero => exact ⟨s, rfl, h⟩
  | succ n ih =>
    obtain ⟨u, hu, hlocked⟩ := h.exists_step hr
    obtain ⟨t, ht, hend⟩ := ih hlocked
    exact ⟨t, (runFor_succ n s u hu).trans ht, hend⟩

/-- Settles O45: every operation ends with the read of REG's byte, and that no write is outstanding is an invariant. -/
theorem illegalRegisterLocksTheBlockOut : Obligations.IllegalRegisterLocksTheBlockOut := by
  refine ⟨fun s w rest i hp hu _ hb hr hd => ?_, fun s n hp hu _ _ hb => ?_⟩
  · have hx := exec_of_illegal_reg i (s := { operationBegun i rest [] s with rdPort := some (.val s.reg) }) rfl rfl hb
    exact ⟨_, runFor_two_of_ideal_read hp hu hr hd hx, rfl, rfl, rfl, rfl⟩
  · have hlocked : LockedOut s.reg (s.calls.countP Call.isWrite) s := ⟨hu, .inl hp, rfl, rfl⟩
    obtain ⟨t, ht, hend⟩ := hlocked.exists_run hb n
    exact ⟨t, ht, hend.reg_eq, hend.writes_eq⟩

end Sys2Proof.Machine
end

section
/-! The events refine the procedures (41_get.md R80, 42_set.md R90): what the procedure makes of each result, the turns
that pass an operation by, the two events that do not, and the statement on them. -/

namespace Sys2Proof.Machine

open Host

/-! ## The procedures -/

theorem procedure_readError {cfg : Cfg} {w : ReqWord} {i : Instr} {e : ErrPayload} (write : WriteResult)
    (hd : decode w = .ok i) :
    procedure cfg w (.err e) write = (.failed (.transportError e), [.read cfg]) := by
  simp only [procedure, hd]

theorem procedure_illegalByte {cfg : Cfg} {w : ReqWord} {i : Instr} {b : Byte} (write : WriteResult)
    (hd : decode w = .ok i) (hb : legal b = false) :
    procedure cfg w (.val b) write = (.failed .invalidRegisterByte, [.read cfg]) := by
  simp [procedure, hd, hb]

/-- `getState` answers a legal byte after one read (41_get.md R84, R85). -/
theorem procedure_get {cfg : Cfg} {w : ReqWord} {i : Instr} {b : Byte} (write : WriteResult) (hd : decode w = .ok i)
    (hget : isSet i = false) (hb : legal b = true) :
    procedure cfg w (.val b) write = (getAnswer i b, [.read cfg]) := by
  cases i
  case getCh idx st =>
    simp only [procedure, hd, hb, if_true]
    rfl
  case getAll idx st =>
    simp only [procedure, hd, hb, if_true]
    rfl
  all_goals simp [isSet] at hget

/-- `setState` writes what the encoder makes of a legal byte (42_set.md R93 to R96). -/
theorem procedure_set {cfg : Cfg} {w : ReqWord} {i : Instr} {b : Byte} {st : RelayState} (write : WriteResult)
    (hd : decode w = .ok i) (hset : isSet i = true) (hst : stateOf i.request.st = some st) (hb : legal b = true) :
    procedure cfg w (.val b) write = procedureWrite cfg (newByte b i.request.all i.request.idx st) write := by
  cases i
  case setChOff idx =>
    obtain rfl : RelayState.off = st := Option.some.inj hst
    simp only [procedure, hd, hb, if_true]
    rfl
  case setChOn idx =>
    obtain rfl : RelayState.on = st := Option.some.inj hst
    have hnew : newByte b 0#1 idx .on = b &&& ~~~(0x01#8 <<< idx.toNat) := by
      rw [newByte, not8_eq_not]
      rfl
    simp only [procedure, hd, hb, if_true, Instr.request, hnew]
  case setAllOff idx =>
    obtain rfl : RelayState.off = st := Option.some.inj hst
    simp only [procedure, hd, hb, if_true]
    rfl
  case setAllOn idx =>
    obtain rfl : RelayState.on = st := Option.some.inj hst
    simp only [procedure, hd, hb, if_true, Instr.request, newByte_all_on]
  all_goals simp [isSet] at hset

/-! ## Turns that pass the block by -/

/-- A turn that leaves the block as it is: one of another agent, or in IDLE any but the block's own and a reset. -/
def Turn.passesBy (turn : Turn) (s : State) : Prop :=
  turn.outside = true ∨ s.phase = .idle ∧ turn ≠ .accept ∧ turn ≠ .blockReset

/-- A state in which turns have passed the block by: what those can change, with `rest` still to come. -/
def passed (requests : List ReqWord) (reg : Byte) (abandoned : List Call) (rest : List Turn) (s : State) : State :=
  { s with requests := requests, reg := reg, abandoned := abandoned, world := rest }

theorem step_of_passesBy {s : State} {turn : Turn} {turns : List Turn} (h : turn.passesBy s)
    (hw : s.world = turn :: turns) :
    ∃ requests reg abandoned, step s = .next (passed requests reg abandoned turns s) := by
  have hnone : ∀ res, s.phase = .idle →
      readTurn res { s with world := turns } = .done (.next (discardLate Call.isRead { s with world := turns })) :=
    fun res hp => readTurn_unawaited res (by simp [hp])
  have hnone' : ∀ ret, s.phase = .idle →
      writeTurn ret { s with world := turns } = .done (.next (discardLate Call.isWrite { s with world := turns })) :=
    fun ret hp => writeTurn_unawaited ret (by simp [hp])
  suffices hdone : ∃ requests reg abandoned,
      takeTurn turn { s with world := turns } = .done (.next (passed requests reg abandoned turns s)) by
    obtain ⟨requests, reg, abandoned, ht⟩ := hdone
    exact ⟨requests, reg, abandoned, step_of_fetch_done ((fetch_listed hw).trans ht)⟩
  rcases h with hout | ⟨hp, hacc, hres⟩
  · cases turn <;> simp only [Turn.outside, reduceCtorEq] at hout
    all_goals exact ⟨_, _, _, rfl⟩
  · cases turn
    case accept => exact absurd rfl hacc
    case blockReset => exact absurd rfl hres
    case readReturn => exact ⟨_, _, _, hnone _ hp⟩
    case readIdeal => exact ⟨_, _, _, hnone _ hp⟩
    case writeReturn => exact ⟨_, _, _, hnone' _ hp⟩
    case writeIdeal => exact ⟨_, _, _, hnone' _ hp⟩
    all_goals exact ⟨_, _, _, rfl⟩

theorem run_of_passesBy {s : State} {turns rest : List Turn} (h : ∀ turn ∈ turns, turn.passesBy s)
    (hw : s.world = turns ++ rest) :
    ∃ requests reg abandoned, runFor turns.length s = .next (passed requests reg abandoned rest s) := by
  induction turns generalizing s with
  | nil => exact ⟨s.requests, s.reg, s.abandoned, by rw [passed, ← List.nil_append rest, ← hw]; rfl⟩
  | cons turn turns ih =>
    obtain ⟨hfirst, hothers⟩ := List.forall_mem_cons.mp h
    obtain ⟨requests, reg, abandoned, hstep⟩ := step_of_passesBy hfirst hw
    obtain ⟨requests', reg', abandoned', hrun⟩ :=
      ih (s := passed requests reg abandoned (turns ++ rest) s) hothers rfl
    exact ⟨requests', reg', abandoned', (runFor_succ _ _ _ hstep).trans hrun⟩

/-! ## An operation that began in `s` -/

/-- The operation has ended with the response and the calls of `p`. -/
structure Answered (p : Response × List Call) (s u : State) : Prop where
  phase : u.phase = .idle
  responses : u.responses = p.1 :: s.responses
  calls : u.calls = p.2 ++ s.calls

/-- The operation of `i` awaits its read. -/
structure AwaitsRead (i : Instr) (s u : State) : Prop where
  phase : u.phase = .rdPend
  latched : decode (latchedWord u) = .ok i
  config : u.cfg = s.cfg ∧ u.widths = s.widths
  responses : u.responses = s.responses
  calls : u.calls = .read s.cfg :: s.calls

/-- The operation of `i` has read `b` and awaits the write of `nb`. -/
structure AwaitsWrite (i : Instr) (b nb : Byte) (s u : State) : Prop where
  phase : u.phase = .wrPend
  latched : decode (latchedWord u) = .ok i
  rdByte : u.rdByte = b
  config : u.cfg = s.cfg ∧ u.widths = s.widths
  responses : u.responses = s.responses
  calls : u.calls = .write s.cfg nb :: .read s.cfg :: s.calls

/-- What is answered stays answered while no word is accepted. -/
theorem Answered.run {p : Response × List Call} {s u : State} {turns : List Turn} (h : Answered p s u)
    (hturns : ∀ turn ∈ turns, turn ≠ .accept ∧ turn ≠ .blockReset) (hw : u.world = turns) :
    ∃ t, runFor turns.length u = .next t ∧ Answered p s t ∧ t.world = [] := by
  obtain ⟨requests, reg, abandoned, hrun⟩ := run_of_passesBy (s := u) (turns := turns) (rest := [])
    (fun turn hmem => .inr ⟨h.phase, hturns turn hmem⟩) (by rw [hw, List.append_nil])
  exact ⟨_, hrun, { h with }, rfl⟩

/-- ACCEPT of an illegal word answers it with the procedure's error and makes no call (30_encoding.md R57). -/
theorem answered_of_illegal {s : State} {w : ReqWord} {e : DecodeError} {turns : List Turn} (read : ReadResult)
    (write : WriteResult) (hp : s.phase = .idle) (hr : s.requests = [w]) (hw : s.world = .accept :: turns)
    (hd : decode w = .illegal e) :
    ∃ u, step s = .next u ∧ u.world = turns ∧ Answered (procedure s.cfg w read write) s u := by
  have hstep := step_accept_illegal hp hr hw hd
  cases e with
  | invalidChannel =>
    rw [accept_invalidChannel hd] at hstep
    have hproc : procedure s.cfg w read write = (.failed .invalidChannel, []) := by simp only [procedure, hd]
    exact ⟨_, hstep, rfl, hproc ▸ ⟨rfl, rfl, rfl⟩⟩
  | invalidState =>
    rw [accept_invalidState hd] at hstep
    have hproc : procedure s.cfg w read write = (.failed .invalidState, []) := by simp only [procedure, hd]
    exact ⟨_, hstep, rfl, hproc ▸ ⟨rfl, rfl, rfl⟩⟩

/-- READ_RETURN ends the operation as the procedure does, or issues the procedure's write (10_state.md R25). -/
theorem AwaitsRead.step {i : Instr} {s u : State} {w : ReqWord} {raw : RawRead} {turns : List Turn}
    (h : AwaitsRead i s u) (write : WriteResult) (hd : decode w = .ok i) (hw : u.world = .readReturn raw :: turns) :
    ∃ v, step u = .next v ∧ v.world = turns ∧
      (Answered (procedure s.cfg w (adapt s.widths raw) write) s v ∨
        ∃ b st, isSet i = true ∧ stateOf i.request.st = some st ∧
          procedure s.cfg w (adapt s.widths raw) write =
            procedureWrite s.cfg (newByte b i.request.all i.request.idx st) write ∧
          AwaitsWrite i b (newByte b i.request.all i.request.idx st) s v) := by
  obtain ⟨hcfg, hwidths⟩ := h.config
  have hstep := step_of_readTurn (res := adapt s.widths raw) h.phase hw h.latched (by rw [← hwidths]; rfl)
  cases hres : adapt s.widths raw with
  | err e =>
    rw [hres] at hstep
    have hx := passesReadFailureOn i { u with rdPort := some (.err e), world := turns } e h.phase rfl
    refine ⟨_, hstep.trans hx, rfl, .inl ?_⟩
    rw [procedure_readError write hd]
    exact ⟨rfl, congrArg _ h.responses, h.calls⟩
  | val b =>
    rw [hres] at hstep
    cases hb : legal b with
    | false =>
      have hx := exec_of_illegal_reg i (s := { u with rdPort := some (.val b), world := turns }) h.phase rfl hb
      refine ⟨_, hstep.trans hx, rfl, .inl ?_⟩
      rw [procedure_illegalByte write hd hb]
      exact ⟨rfl, congrArg _ h.responses, h.calls⟩
    | true =>
      cases hset : isSet i with
      | false =>
        have hx := exec_get_legal (s := { u with rdPort := some (.val b), world := turns })
          (wellFormed_of_decode hd) hset h.phase rfl hb
        refine ⟨_, hstep.trans hx, rfl, .inl ?_⟩
        rw [procedure_get write hd hset hb]
        exact ⟨rfl, congrArg _ h.responses, h.calls⟩
      | true =>
        have hop := (isSet_iff_op i).mp hset
        obtain ⟨st, hst, -⟩ := exec_set i hop
        have hx := writesAfterLegalByte_of_set st hop hst { u with rdPort := some (.val b), world := turns } b h.phase
          rfl ((legal_iff_highNibble b).mp hb)
        have hcalls : Call.write u.cfg (newByte b i.request.all i.request.idx st) :: u.calls =
            .write s.cfg (newByte b i.request.all i.request.idx st) :: .read s.cfg :: s.calls := by rw [hcfg, h.calls]
        exact ⟨_, hstep.trans hx, rfl, .inr ⟨b, st, rfl, hst, procedure_set write hd hset hst hb,
          ⟨rfl, h.latched, rfl, h.config, h.responses, hcalls⟩⟩⟩

theorem procedureWrite_calls (cfg : Cfg) (nb : Byte) (result : WriteResult) :
    (procedureWrite cfg nb result).2 = [.write cfg nb, .read cfg] := by
  cases result <;> rfl

/-- WRITE_RETURN responds as the procedure does, whatever the device then holds (10_state.md R25). -/
theorem writeReturn_responds (cfg : Cfg) (sent : Byte) {s : State} {ret : WriteReturn} (hw : s.wrPort = some ret) :
    ∃ v n, writeReturn sent s =
      respond (procedureWrite cfg sent ret.result).1 { s with wrPort := none, reg := v, draws := n } := by
  obtain ⟨v, n, hdev⟩ := deviceAfterWrite_spec sent ret { s with wrPort := none }
  refine ⟨v, n, ?_⟩
  simp only [writeReturn, hw, hdev]
  cases ret.result <;> rfl

/-- WRITE_RETURN ends the operation as the procedure does. -/
theorem AwaitsWrite.step {i : Instr} {s u : State} {b : Byte} {st : RelayState} {ret : WriteReturn} {turns : List Turn}
    (h : AwaitsWrite i b (newByte b i.request.all i.request.idx st) s u) (hset : isSet i = true)
    (hst : stateOf i.request.st = some st) (hw : u.world = .writeReturn ret :: turns) :
    ∃ v, step u = .next v ∧ v.world = turns ∧
      Answered (procedureWrite s.cfg (newByte b i.request.all i.request.idx st) (adaptWrite s.widths ret.result)) s v := by
  obtain ⟨-, hwidths⟩ := h.config
  have hx := exec_set_wrPend
    (s := { u with wrPort := some { ret with result := adaptWrite u.widths ret.result }, world := turns })
    ((isSet_iff_op i).mp hset) hst h.phase
  obtain ⟨v, n, hresponds⟩ := writeReturn_responds s.cfg (newByte u.rdByte i.request.all i.request.idx st)
    (s := { u with wrPort := some { ret with result := adaptWrite u.widths ret.result }, world := turns }) rfl
  refine ⟨_, (step_of_writeTurn h.phase hw h.latched rfl).trans (hx.trans (congrArg _ hresponds)), rfl, ?_⟩
  rw [← hwidths, ← h.rdByte]
  refine ⟨rfl, congrArg _ h.responses, ?_⟩
  rw [procedureWrite_calls, h.rdByte]
  exact h.calls

/-! ## From ACCEPT to the end -/

theorem Turn.ne_of_outside {turn : Turn} (h : turn.outside = true) : turn ≠ .accept ∧ turn ≠ .blockReset := by
  constructor <;> rintro rfl <;> simp [Turn.outside] at h

theorem AwaitsRead.passed {i : Instr} {s u : State} (h : AwaitsRead i s u) (requests : List ReqWord) (reg : Byte)
    (abandoned : List Call) (rest : List Turn) : AwaitsRead i s (passed requests reg abandoned rest u) := { h with }

theorem AwaitsWrite.passed {i : Instr} {b nb : Byte} {s u : State} (h : AwaitsWrite i b nb s u)
    (requests : List ReqWord) (reg : Byte) (abandoned : List Call) (rest : List Turn) :
    AwaitsWrite i b nb s (passed requests reg abandoned rest u) := { h with }

/-- From WR_PEND, other agents' turns and then the write's result. -/
theorem AwaitsWrite.run {i : Instr} {s u : State} {b : Byte} {st : RelayState} {ret : WriteReturn}
    {between : List Turn} (h : AwaitsWrite i b (newByte b i.request.all i.request.idx st) s u) (hset : isSet i = true)
    (hst : stateOf i.request.st = some st) (hbetween : ∀ turn ∈ between, turn.outside = true)
    (hw : u.world = between ++ [Turn.writeReturn ret]) :
    ∃ t, runFor (between.length + 1) u = .next t ∧
      Answered (procedureWrite s.cfg (newByte b i.request.all i.request.idx st) (adaptWrite s.widths ret.result)) s t ∧
      t.world = [] := by
  obtain ⟨requests, reg, abandoned, hrun⟩ := run_of_passesBy (fun turn hmem => .inl (hbetween turn hmem)) hw
  obtain ⟨t, hstep, hworld, hanswered⟩ := (h.passed requests reg abandoned [.writeReturn ret]).step hset hst rfl
  exact ⟨t, (runFor_add _ 1 _ _ hrun).trans (runFor_succ 0 _ _ hstep), hanswered, hworld⟩

/-- From RD_PEND, other agents' turns and then the read's result, and what is left of the operation. -/
theorem AwaitsRead.run {i : Instr} {s u : State} {w : ReqWord} {raw : RawRead} {ret : WriteReturn}
    {before between : List Turn} (h : AwaitsRead i s u) (hd : decode w = .ok i)
    (hbefore : ∀ turn ∈ before, turn.outside = true) (hbetween : ∀ turn ∈ between, turn.outside = true)
    (hw : u.world = before ++ Turn.readReturn raw :: (between ++ [Turn.writeReturn ret])) :
    ∃ t, runFor (before.length + (between.length + 2)) u = .next t ∧
      Answered (procedure s.cfg w (adapt s.widths raw) (adaptWrite s.widths ret.result)) s t ∧ t.world = [] := by
  obtain ⟨requests, reg, abandoned, hrun⟩ := run_of_passesBy (fun turn hmem => .inl (hbefore turn hmem)) hw
  obtain ⟨v, hstep, hworld, hend⟩ :=
    (h.passed requests reg abandoned (Turn.readReturn raw :: (between ++ [Turn.writeReturn ret]))).step
      (adaptWrite s.widths ret.result) hd rfl
  have hrest : ∃ t, runFor (between.length + 1) v = .next t ∧
      Answered (procedure s.cfg w (adapt s.widths raw) (adaptWrite s.widths ret.result)) s t ∧ t.world = [] := by
    rcases hend with hanswered | ⟨b, st, hset, hst, hproc, hawaits⟩
    · have hturns : ∀ turn ∈ between ++ [Turn.writeReturn ret], turn ≠ .accept ∧ turn ≠ .blockReset := by
        intro turn hmem
        rcases List.mem_append.mp hmem with hout | hlast
        · exact Turn.ne_of_outside (hbetween turn hout)
        · simp [List.mem_singleton.mp hlast]
      obtain ⟨t, hrun', hanswered', hworld'⟩ := hanswered.run hturns hworld
      rw [List.length_append, List.length_singleton] at hrun'
      exact ⟨t, hrun', hanswered', hworld'⟩
    · rw [hproc]
      exact hawaits.run hset hst hbetween hworld
  obtain ⟨t, hlast, hanswered, hempty⟩ := hrest
  exact ⟨t, (runFor_add _ _ _ _ hrun).trans ((runFor_succ _ _ _ hstep).trans hlast), hanswered, hempty⟩

/-! ## The statement -/

/-- Settles O39: the other agents' turns pass the operation by, and its own three events do what the procedure does. -/
theorem eventsRefineTheProcedures : Obligations.EventsRefineTheProcedures := by
  intro s w raw ret before between hp _ _ hr hbefore hbetween hw
  have hlisted : s.world = Turn.accept :: (before ++ Turn.readReturn raw :: (between ++ [Turn.writeReturn ret])) := by
    simpa using hw
  have hlength : before.length + between.length + 3 = before.length + (between.length + 2) + 1 := by omega
  have hbegun : ∃ u, step s = .next u ∧ ∃ t, runFor (before.length + (between.length + 2)) u = .next t ∧
      Answered (procedure s.cfg w (adapt s.widths raw) (adaptWrite s.widths ret.result)) s t ∧ t.world = [] := by
    rcases hd : decode w with i | e
    · have hawaits : AwaitsRead i s
          (operationBegun i [] (before ++ Turn.readReturn raw :: (between ++ [Turn.writeReturn ret])) s) :=
        ⟨rfl, decode_latchedWord_of_request hd rfl, ⟨rfl, rfl⟩, rfl, rfl⟩
      exact ⟨_, step_accept_legal hp hr hd hlisted, hawaits.run hd hbefore hbetween rfl⟩
    · obtain ⟨u, hstep, hworld, hanswered⟩ := answered_of_illegal (adapt s.widths raw)
        (adaptWrite s.widths ret.result) hp hr hlisted hd
      refine ⟨u, hstep, ?_⟩
      have hturns : ∀ turn ∈ before ++ Turn.readReturn raw :: (between ++ [Turn.writeReturn ret]),
          turn ≠ .accept ∧ turn ≠ .blockReset := by
        intro turn hmem
        simp only [List.mem_append, List.mem_cons, List.not_mem_nil, or_false] at hmem
        rcases hmem with hout | rfl | hout | rfl
        · exact Turn.ne_of_outside (hbefore turn hout)
        · simp
        · exact Turn.ne_of_outside (hbetween turn hout)
        · simp
      have hrun := hanswered.run hturns hworld
      rwa [List.length_append, List.length_cons, List.length_append, List.length_singleton] at hrun
  obtain ⟨u, hstep, t, hrun, hanswered, hworld⟩ := hbegun
  rw [hlength]
  exact ⟨t, (runFor_succ _ _ _ hstep).trans hrun, hanswered.phase, hworld, hanswered.responses, hanswered.calls⟩

end Sys2Proof.Machine
end
